-- ==== Sys2Proof/Word.lean ====
section
/-! DEFINITION. The bit-vector types of the machine: bytes, 16-bit operands and addresses, and Numbers. -/

namespace Sys2Proof

/-- A byte, 0 to 255 (00 R7). -/
abbrev Byte := BitVec 8

/-- A 16-bit operand, unsigned 0 to 65535 (30 R61). -/
abbrev Half := BitVec 16

/-- A byte address of memory, 0 to 65535 (20 R40); `ip` holds one (10 R16). -/
abbrev Addr := BitVec 16

/-- A Number: W = 32 bits, two's complement (10 R12). -/
abbrev Number := BitVec 32

/-- The content of a String: a finite byte sequence with explicit length (10 R12, 44 R144). -/
abbrev Str := List Byte

/-- The index of a general register, 0 to 15 (10 R11). -/
abbrev Reg := Fin 16

end Sys2Proof
end

