-- ==== Sys2Proof/Config.lean ====
section
/-! DEFINITION. What is fixed for the machine: the sizes the source fixes (00 R5), the names of the
38 instructions the opcode table is indexed by (30 R70), the type of an opcode map (30 R69), and the one
free value, the random input (10 R32). The parameters whose value the spec chose and a test could correct
(STACK_MAX_SP, COPYWRAP, the default opcode map) stand in Machine/Params.lean and Decode.lean. -/

namespace Sys2Proof

/-- 00 R5, `NREGS`. -/
abbrev Config.nRegs : Nat := 16

/-- 00 R5, `MEMSIZE`, bytes of memory. -/
abbrev Config.memSize : Nat := 65536

/-- 00 R5, `MAXPROG`, the largest program image in bytes. -/
abbrev Config.maxProg : Nat := 65535

/-- 00 R5, `STACKSLOTS`; slots are numbered 1 to 1024 (10 R20). -/
abbrev Config.stackSlots : Nat := 1024

/-- The random input (10 R32, 41 R103, decision D16): the value the environment delivers at the `n`-th
draw, 0 to 65535. A FREE VALUE: it has no body, so nothing can be proved of any one value (log 2). -/
opaque Config.freeRandom : Nat → BitVec 16

/-- The 38 instruction names of 30 R70, the index set of the opcode map. -/
inductive Mnemonic where
  | exit
  | intStore
  | intPrint
  | intTostring
  | intRandom
  | jumpTo
  | jumpZ
  | jumpNz
  | mathXor
  | mathAdd
  | mathSub
  | mathMul
  | mathDiv
  | mathInc
  | mathDec
  | mathAnd
  | mathOr
  | mathLft
  | mathRgt
  | stringStore
  | stringPrint
  | stringConcat
  | stringSystem
  | stringToint
  | cmpReg
  | cmpImmediate
  | cmpString
  | isString
  | isNumber
  | nop
  | storeReg
  | peek
  | poke
  | memcpy
  | stackPush
  | stackPop
  | stackRet
  | stackCall
  deriving DecidableEq, Repr

/-- All 38 mnemonics, in the order of `spec/opcode_table.json`. -/
def Mnemonic.all : List Mnemonic :=
  [.exit, .intStore, .intPrint, .intTostring, .intRandom, .jumpTo, .jumpZ, .jumpNz] ++
  [.mathXor, .mathAdd, .mathSub, .mathMul, .mathDiv, .mathInc, .mathDec, .mathAnd] ++
  [.mathOr, .mathLft, .mathRgt, .stringStore, .stringPrint, .stringConcat, .stringSystem, .stringToint] ++
  [.cmpReg, .cmpImmediate, .cmpString, .isString, .isNumber, .nop, .storeReg, .peek] ++
  [.poke, .memcpy, .stackPush, .stackPop, .stackRet, .stackCall]

/-- An opcode map `opc` from the mnemonics to opcode bytes (30 R69, parameter of 00 R6). -/
abbrev OpcodeMap := Mnemonic → Byte

/-- 30 R69 asks of an opcode map only that it is injective. -/
def OpcodeMap.Injective (opc : OpcodeMap) : Prop := ∀ m m', opc m = opc m' → m = m'

end Sys2Proof
end

