-- ==== Sys2Proof/Machine/State.lean ====
section
/-! DEFINITION. The state of the machine as plain data (10 R10), the ways a step can stop, and the state after
reset (10 R34). -/

namespace Sys2Proof.Machine

/-- A variant word (10 R12): what one register holds. -/
inductive Value where
  | number (n : Number)
  | string (s : Str)
  deriving DecidableEq, Repr

/-- The states of the execution state machine, as seen between instructions (10 R22). -/
inductive Phase where
  /-- No instance: before the first CREATE, after a failed CREATE, after DESTROY. -/
  | empty
  /-- CREATE succeeded, no RUN yet. -/
  | loaded
  /-- The loop is dispatching. -/
  | executing
  /-- The loop has ended normally, by EXIT or by the cap. -/
  | stopped
  /-- A panic was raised. -/
  | panicked
  deriving DecidableEq, Repr

/-- The seven panic causes (60 R200). -/
inductive Cause where
  | badRegister | typeMismatch | divZero | stackOverflow | stackUnderflow | addressRange | negativeCopy
  deriving DecidableEq, Repr

/-- A panic record `(cause, info)` (10 R23, R31; the `info` of each cause is in 60 R200). -/
structure Panic where
  cause : Cause
  info : Int
  deriving DecidableEq, Repr

/-- A record of channel OUT (10 R28). -/
inductive OutRecord where
  | int (n : Number)
  | str (s : Str)
  deriving DecidableEq, Repr

/-- A record of channel HOST (10 R29). -/
inductive HostRecord where
  | system (s : Str)
  deriving DecidableEq, Repr

/-- A record of channel DIAG (10 R30). -/
inductive DiagRecord where
  | unknownOpcode (b : Byte)
  | systemSkipped (s : Str)
  deriving DecidableEq, Repr

/-- A command of the host (10 R33). -/
inductive Command where
  /-- CREATE(image, config), `config` being the bit `fuzz_safe` (70 R230). -/
  | create (image : List Byte) (fuzzSafe : Bool)
  /-- RUN(cap) (70 R233). -/
  | run (cap : Int)
  /-- DUMP (70 R238). -/
  | dump
  /-- DESTROY (70 R239). -/
  | destroy
  deriving DecidableEq, Repr

/-- Memory: (address, byte) pairs in one canonical form, addresses strictly rising, below 65536, and no pair
listing the byte an unlisted address reads as (`Memory.wf`, Machine/Ops.lean). -/
abbrev Memory := List Host.Cell

/-- What a host command answers. -/
inductive Reply where
  /-- CREATE succeeded (70 R230). -/
  | created
  /-- CREATE failed: "returns no instance" (70 R231). -/
  | createFailed
  /-- RUN was accepted (70 R233). -/
  | started
  /-- DUMP's content: the sixteen variant words and Z (70 R238), and `sp`, the entries of the stack, `stack[1]`
  first, and `mem`, which 40 R95 has readable through DUMP too (log 19). -/
  | dumped (regs : Vector Value Config.nRegs) (z : Bool) (sp : Nat) (entries : List Number) (mem : Memory)
  /-- DESTROY was accepted (70 R239). -/
  | destroyed
  /-- The command is not accepted in this phase, and nothing changes (70 R234). -/
  | refused
  deriving DecidableEq, Repr

/-- The state of the machine (10 R10), the configuration bit of the instance (10 R26), and three fields of the
model's own that carry what the outside world does (`draws`, `pending`, `replies`). -/
structure State where
  /-- x[0] to x[15] (10 R11, R12). -/
  regs : Vector Value Config.nRegs
  /-- The program counter (10 R16): between instructions, the address of the next opcode byte. -/
  ip : Addr
  /-- The zero-flag Z (10 R18). -/
  z : Bool
  /-- The stack pointer, 0 to 1024, 0 when the stack is empty (10 R19). -/
  sp : Fin (Config.stackSlots + 1)
  /-- stack[1] to stack[1024] (10 R20); slot `k` stands at index `k - 1`. -/
  stack : Vector Number Config.stackSlots
  /-- mem[0] to mem[65535] (20 R40). -/
  mem : Memory
  /-- The loop's continue flag (10 R21). -/
  running : Bool
  /-- The state of the execution state machine (10 R22). -/
  phase : Phase
  /-- The latched panic (10 R23). -/
  fault : Option Panic
  /-- Instructions dispatched in the current run (10 R24), an unbounded count. -/
  icount : Nat
  /-- The limit RUN was given (10 R24); 0 or less means none. -/
  cap : Int
  /-- Channel OUT, oldest record first (10 R28). -/
  outCh : List OutRecord
  /-- Channel HOST (10 R29). -/
  hostCh : List HostRecord
  /-- Channel DIAG (10 R30). -/
  diagCh : List DiagRecord
  /-- Channel PANIC (10 R31). -/
  panicCh : List Panic
  /-- The configuration bit `fuzz_safe`, fixed by CREATE (10 R26). -/
  fuzzSafe : Bool
  /-- The model's own: how many values the random input has delivered (10 R32; log 2). -/
  draws : Nat
  /-- The model's own: the commands the host will still issue, oldest first (10 R33; log 5). -/
  pending : List Command
  /-- The model's own: what the host's commands answered, oldest first (log 5). -/
  replies : List Reply
  deriving DecidableEq, Repr

/-- Why a step stops with a fault. A panic (60 R204) is NOT one of these: it is a next state. -/
inductive Fault where
  /-- Raised by `step` alone, if the decoder rejects the bytes fetched for an instruction as too few. Safe. The
  fetch reads as many bytes as the instruction has, so no state raises it (log 9). -/
  | decodeRejected
  deriving DecidableEq, Repr

/-- Why a step has no meaning to give. -/
inductive Refusal where
  /-- Raised by an arm of `exec` whose instruction has no meaning yet. Safe. No arm raises it. -/
  | notModelled (mnemonic : String)
  deriving DecidableEq, Repr

/-- What a meaning and a step answer. -/
abbrev Result := Host.Outcome State Fault Refusal

/-- The machine right after reset, that is after a successful CREATE (10 R34), with nothing listed in memory:
every byte is 0 (log 1). The stack slots, which the spec leaves unspecified, hold 0 (DESIGN CHOICE, log 3). -/
def State.reset : State where
  regs := Vector.replicate Config.nRegs (.number 0)
  ip := 0
  z := false
  sp := 0
  stack := Vector.replicate Config.stackSlots 0
  mem := []
  running := true
  phase := .loaded
  fault := none
  icount := 0
  cap := 0
  outCh := []
  hostCh := []
  diagCh := []
  panicCh := []
  fuzzSafe := false
  draws := 0
  pending := []
  replies := []

end Sys2Proof.Machine
end

