-- ==== Sys2Proof/Machine/Ops.lean ====
section
/-! DEFINITION. The named operations over memory, registers, program counter, stack and channels, and taking a
panic, the one exception of the hardware. -/

namespace Sys2Proof.Machine

/-! ### Memory (20 R40 to R53) -/

/-- What a byte that no pair lists reads as: CREATE zero-fills memory (20 R46, 10 R34; log 1). -/
def Memory.unlisted : Byte := 0

/-- The byte listed at a numeric address. -/
def Memory.lookup : Memory → Nat → Byte
  | [], _ => Memory.unlisted
  | (k, b) :: m, a => if k = a then b else Memory.lookup m a

/-- `MemRead(a, 1)` (20 R41). -/
def Memory.read (m : Memory) (a : Addr) : Byte := Memory.lookup m a.toNat

/-- List the byte `v` in front of `m`, unless it is what an unlisted byte reads as. -/
def Memory.cons (a : Nat) (v : Byte) (m : Memory) : Memory :=
  if v = Memory.unlisted then m else (a, v) :: m

/-- Put the byte `v` at a numeric address, in its place of the rising order. -/
def Memory.insert : Memory → Nat → Byte → Memory
  | [], a, v => Memory.cons a v []
  | (k, b) :: m, a, v =>
    if k < a then (k, b) :: Memory.insert m a v
    else if k = a then Memory.cons a v m
    else Memory.cons a v ((k, b) :: m)

/-- `MemWrite(a, 1, v)` (20 R41). -/
def Memory.write (m : Memory) (a : Addr) (v : Byte) : Memory := Memory.insert m a.toNat v

/-- The canonical form of what stands at numeric address `lo` or above. -/
def Memory.wfFrom : Nat → Memory → Bool
  | _, [] => true
  | lo, (k, b) :: m =>
    decide (lo ≤ k) && decide (k < Config.memSize) && b != Memory.unlisted && Memory.wfFrom (k + 1) m

/-- The canonical form of a memory: addresses strictly rising and below 65536, no byte listed that an unlisted
address reads as anyway. -/
def Memory.wf (m : Memory) : Bool := Memory.wfFrom 0 m

/-- The `n` bytes from address `a` on, the address wrapping from 65535 to 0 (30 R60). -/
def Memory.readBytes (m : Memory) : Addr → Nat → List Byte
  | _, 0 => []
  | a, n + 1 => m.read a :: Memory.readBytes m (a + 1) n

/-- Write bytes from address `a` on, the address wrapping from 65535 to 0. -/
def Memory.writeBytes (m : Memory) : Addr → List Byte → Memory
  | _, [] => m
  | a, b :: bs => Memory.writeBytes (m.write a b) (a + 1) bs

/-- The memory that CREATE makes of an image placed at address `k`: the image's bytes, zero elsewhere (70 R230). -/
def Memory.ofImage : Nat → List Byte → Memory
  | _, [] => []
  | k, b :: bs => Memory.cons k b (Memory.ofImage (k + 1) bs)

/-- The loop of MEMCPY (47 R167) for `n` remaining bytes: read at `s mod 65535`, write at `d mod 65535`, in
ascending order, each byte read just before it is written; `s` and `d` are unbounded. The modulus is an argument
(`Config.copyWrap`). -/
def Memory.copy (wrap : Nat) : Nat → Nat → Nat → Memory → Memory
  | 0, _, _, m => m
  | n + 1, s, d, m =>
    Memory.copy wrap n (s + 1) (d + 1)
      (m.write (BitVec.ofNat 16 (d % wrap)) (m.read (BitVec.ofNat 16 (s % wrap))))

/-! ### Registers, program counter, flag, stack -/

/-- `x[i]` (10 R11). -/
def State.reg (s : State) (i : Reg) : Value := s.regs[i]

/-- `x[i] <- v`: tag and value together, no other register (10 R13). -/
def State.setReg (s : State) (i : Reg) (v : Value) : State := { s with regs := s.regs.set i v }

/-- `Z <- b` (10 R18). -/
def State.setZ (s : State) (b : Bool) : State := { s with z := b }

/-- `ip <- t` (00 R8). -/
def State.setIp (s : State) (t : Addr) : State := { s with ip := t }

/-- Leave the instruction of `n` bytes: `ip = (a + n) mod 65536` (10 R17), what the operand fetches and the
final `advance()` (30 R60, R63) come to. -/
def State.advance (s : State) (n : Nat) : State := { s with ip := s.ip + BitVec.ofNat 16 n }

/-- `running <- 0` (10 R21). -/
def State.clearRunning (s : State) : State := { s with running := false }

/-- Replace the memory. -/
def State.setMem (s : State) (m : Memory) : State := { s with mem := m }

/-- Slot `k` stands at index `k - 1`. -/
theorem slotIndex_lt (k : Fin (Config.stackSlots + 1)) : k.val - 1 < Config.stackSlots := by
  have := k.isLt
  have : 0 < Config.stackSlots := by decide
  omega

/-- `stack[k]`, 1 <= k <= 1024 (10 R20). It is used at `k = sp` with `sp` not 0 only. -/
def State.slot (s : State) (k : Fin (Config.stackSlots + 1)) : Number := s.stack[k.val - 1]'(slotIndex_lt k)

/-- The entries of the stack, `stack[1]` to `stack[sp]`; the slots above `sp` are not among them (10 R20). -/
def State.entries (s : State) : List Number := s.stack.toList.take s.sp.val

/-- `sp <- sp + 1; stack[sp] <- v` (48 R175), given that a slot is free. -/
def State.pushed (s : State) (v : Number) (h : s.sp.val < Config.stackSlots) : State :=
  { s with sp := ⟨s.sp.val + 1, Nat.succ_lt_succ h⟩, stack := s.stack.set s.sp.val v }

/-- `sp <- sp - 1`; the slot keeps its value (10 R20). -/
def State.popped (s : State) : State :=
  { s with sp := ⟨s.sp.val - 1, Nat.lt_of_le_of_lt (Nat.sub_le _ _) s.sp.isLt⟩ }

/-! ### Channels and the random input -/

/-- `emit(OUT, r)` (10 R28). -/
def State.emitOut (s : State) (r : OutRecord) : State := { s with outCh := s.outCh ++ [r] }

/-- `emit(HOST, r)` (10 R29). -/
def State.emitHost (s : State) (r : HostRecord) : State := { s with hostCh := s.hostCh ++ [r] }

/-- `emit(DIAG, r)` (10 R30). -/
def State.emitDiag (s : State) (r : DiagRecord) : State := { s with diagCh := s.diagCh ++ [r] }

/-- The value `draw_rng()` returns next (10 R32): a free value, 0 to 65535 (log 2). -/
def State.nextRandom (s : State) : Half := Config.freeRandom s.draws

/-- The random input has delivered one more value. -/
def State.drawn (s : State) : State := { s with draws := s.draws + 1 }

/-! ### Taking a panic (60 R200, R204) -/

/-- The code number of a cause (60 R200). -/
def Cause.code : Cause → Nat
  | .badRegister => 1
  | .typeMismatch => 2
  | .divZero => 3
  | .stackOverflow => 4
  | .stackUnderflow => 5
  | .addressRange => 6
  | .negativeCopy => 7

/-- `raise Panic(cause, info)` (60 R204), applied to the state in which the instruction began, so that none of
its writes is kept and `ip` stands on its opcode byte: the fault is latched, the loop ends, the phase is
PANICKED, and one record is emitted. There is no return from a panic (60 R208). -/
def State.takePanic (s : State) (p : Panic) : State :=
  { s with fault := some p, running := false, phase := .panicked, panicCh := s.panicCh ++ [p] }

/-- An instruction that began in `s` raises a panic. -/
def raise (s : State) (cause : Cause) (info : Int) : Result := .next (s.takePanic ⟨cause, info⟩)

end Sys2Proof.Machine
end

