-- ==== Sys2Proof/Machine/Params.lean ====
section
/-! DEFINITION. The numeric parameters whose value the spec chose (00 R6, 93 U4, U5), in a file where a test can
still correct them (log 8). -/

namespace Sys2Proof

/-- `STACK_MAX_SP`, the largest value `sp` may hold (00 R6, decision D7): 1024; the other reading is 1023. -/
abbrev Config.stackMaxSp : Nat := 1024

/-- `COPYWRAP`, the modulus of MEMCPY's indices (00 R5, 47 R167, 90 C4): 65535, not 65536. -/
abbrev Config.copyWrap : Nat := 65535

end Sys2Proof
end

