-- ==== Sys2Proof/Machine/Operands.lean ====
section
/-! DEFINITION. The operand forms: the check of a register byte, the typed reads, the address and stack tests,
each raising its panic or going on with the value (60 R206 fixes their order in each rule), and the number
format. Each takes the state in which the instruction began. -/

namespace Sys2Proof.Machine

/-- `reg(b)` (30 R66): a register byte of 16 or more raises BAD_REGISTER with that byte. -/
def withReg (b : Byte) (s : State) (k : Reg → Result) : Result :=
  if h : b.toNat < Config.nRegs then k ⟨b.toNat, h⟩ else raise s .badRegister b.toNat

/-- `num(i)` (10 R14): a String raises TYPE_MISMATCH with the register's index. -/
def withNum (i : Reg) (s : State) (k : Number → Result) : Result :=
  match s.reg i with
  | .number n => k n
  | .string _ => raise s .typeMismatch i.val

/-- `str(i)` (10 R14): a Number raises TYPE_MISMATCH with the register's index. -/
def withStr (i : Reg) (s : State) (k : Str → Result) : Result :=
  match s.reg i with
  | .string t => k t
  | .number _ => raise s .typeMismatch i.val

/-- The address test of PEEK and POKE (47 R165, R166): outside 0 to 65535 raises ADDRESS_RANGE, no wrap. -/
def withAddress (a : Number) (s : State) (k : Addr → Result) : Result :=
  if a.toInt < 0 ∨ a.toInt > 65535 then raise s .addressRange a.toInt else k (BitVec.ofInt 16 a.toInt)

/-- The address test of MEMCPY (47 R167): negative raises NEGATIVE_COPY; there is no upper bound. -/
def withCopyAddress (a : Number) (s : State) (k : Nat → Result) : Result :=
  if a.toInt < 0 then raise s .negativeCopy a.toInt else k a.toInt.toNat

/-- `STACK_MAX_SP` is no larger than the number of slots (10 R19, R20). -/
theorem stackMaxSp_le_stackSlots : Config.stackMaxSp ≤ Config.stackSlots := by decide

/-- The push of STACK_PUSH and STACK_CALL (48 R175, R181): `sp + 1 > STACK_MAX_SP` raises STACK_OVERFLOW. -/
def withPush (v : Number) (s : State) (k : State → Result) : Result :=
  if h : s.sp.val + 1 > Config.stackMaxSp then raise s .stackOverflow (s.sp.val + 1)
  else k (s.pushed v (Nat.lt_of_lt_of_le (Nat.lt_of_not_le (fun g => h (Nat.lt_succ_of_le g))) stackMaxSp_le_stackSlots))

/-- The pop of STACK_POP and STACK_RET (48 R176, R180): `sp = 0` raises STACK_UNDERFLOW; otherwise go on with
`stack[sp]` and the state whose `sp` is one less. -/
def withPop (s : State) (k : Number → State → Result) : Result :=
  if s.sp.val = 0 then raise s .stackUnderflow s.sp.val else k (s.slot s.sp) s.popped

/-- `wrapW(v)` (00 R7): the 32-bit two's complement number congruent to `v`. -/
def wrapW (v : Int) : Number := BitVec.ofInt 32 v

/-- A 16-bit operand as a Number, zero-extended (30 R61). -/
def ofHalf (v : Half) : Number := wrapW v.toNat

/-- A loaded byte as a Number, zero-extended (47 R165). -/
def ofByte (b : Byte) : Number := wrapW b.toNat

/-- The byte POKE stores: the low 8 bits of the pattern (47 R166). -/
def lowByteOf (n : Number) : Byte := BitVec.ofNat 8 n.toNat

end Sys2Proof.Machine
end

