-- ==== Sys2Proof/Machine/Numeric.lean ====
section
/-! DEFINITION. Immediate and numeric instructions (41_int.md): INT_STORE, INT_PRINT, INT_TOSTRING, INT_RANDOM,
and the decimal text of a Number. None writes Z, sp, the stack or mem (41 R104). -/

namespace Sys2Proof.Machine

/-- The ASCII digit of `d`, 0 to 9 (41 R105). -/
def digitByte (d : Nat) : Byte := BitVec.ofNat 8 (0x30 + d)

/-- The decimal digits of `n`, most significant first, in front of `acc`; `fuel` bounds their number. -/
def decDigits : Nat → Nat → List Byte → List Byte
  | 0, _, acc => acc
  | fuel + 1, n, acc =>
    if n < 10 then digitByte n :: acc else decDigits fuel (n / 10) (digitByte (n % 10) :: acc)

/-- `dec(n)`, the decimal text of a Number (41 R105); a 32-bit magnitude has at most ten digits. -/
def dec (n : Number) : Str :=
  if n.toInt < 0 then 0x2D :: decDigits 10 n.toInt.natAbs [] else decDigits 10 n.toInt.natAbs []

/-- INT_STORE (41 R100): the immediate is zero-extended. -/
def execIntStore (r1 : Byte) (imm : Half) (s : State) : Result :=
  withReg r1 s fun d =>
  .next ((s.setReg d (.number (ofHalf imm))).advance 4)

/-- INT_PRINT (41 R101). -/
def execIntPrint (r1 : Byte) (s : State) : Result :=
  withReg r1 s fun i =>
  withNum i s fun n =>
  .next ((s.emitOut (.int n)).advance 2)

/-- INT_TOSTRING (41 R102). -/
def execIntTostring (r1 : Byte) (s : State) : Result :=
  withReg r1 s fun i =>
  withNum i s fun n =>
  .next ((s.setReg i (.string (dec n))).advance 2)

/-- INT_RANDOM (41 R103): the value is free (log 2); a bad register byte draws none. -/
def execIntRandom (r1 : Byte) (s : State) : Result :=
  withReg r1 s fun d =>
  .next ((s.drawn.setReg d (.number (ofHalf s.nextRandom))).advance 2)

end Sys2Proof.Machine
end

