-- ==== Sys2Proof/Machine/Commands.lean ====
section
/-! DEFINITION. The host interface (70 R230 to R240): the four commands, the host's next move outside phase
EXECUTING, and the text of channel OUT. -/

namespace Sys2Proof.Machine

/-- Keep of a state what is not the instance's: the random input, the commands to come and the answers given
(log 2, 5). -/
def State.keepWorld (fresh s : State) : State :=
  { fresh with draws := s.draws, pending := s.pending, replies := s.replies }

/-- No instance (70 R231, R239): phase EMPTY, nothing of the old one left (log 13). -/
def State.emptied (s : State) : State :=
  State.keepWorld { State.reset with phase := .empty, running := false } s

/-- A successful CREATE (70 R230, 10 R34): the state after reset, with the image in memory. -/
def State.created (image : List Byte) (fuzzSafe : Bool) (s : State) : State :=
  State.keepWorld { State.reset with mem := Memory.ofImage 0 image, fuzzSafe := fuzzSafe } s

/-- CREATE outside phase EXECUTING (70 R230, R231): it succeeds for an image of 1 to 65535 bytes. -/
def State.create (image : List Byte) (fuzzSafe : Bool) (s : State) : State × Reply :=
  if 1 ≤ image.length ∧ image.length ≤ Config.maxProg then (s.created image fuzzSafe, .created)
  else (s.emptied, .createFailed)

/-- An accepted RUN (70 R233). -/
def State.startRun (cap : Int) (s : State) : State :=
  { s with ip := 0, running := true, icount := 0, cap := cap, phase := .executing }

/-- One host command, in any phase (70 R230 to R239): the state after it and its answer. -/
def State.accept (c : Command) (s : State) : State × Reply :=
  match c with
  | .create image fuzzSafe => if s.phase = .executing then (s, .refused) else s.create image fuzzSafe
  | .run cap => if s.phase = .loaded ∨ s.phase = .stopped then (s.startRun cap, .started) else (s, .refused)
  | .dump =>
    if s.phase = .loaded ∨ s.phase = .stopped ∨ s.phase = .panicked then
      (s, .dumped s.regs s.z s.sp.val s.entries s.mem)
    else (s, .refused)
  | .destroy => if s.phase = .executing then (s, .refused) else (s.emptied, .destroyed)

/-- The host's move outside phase EXECUTING (10 R33, 70 R240): its next command is carried out and answered; with
no command to come "the state stays as it is until the next host command" (40 R94; log 5). -/
def State.hostMove (s : State) : State :=
  match s.pending with
  | [] => s
  | c :: rest =>
    let (t, r) := ({ s with pending := rest } : State).accept c
    { t with replies := t.replies ++ [r] }

/-- The text of one OUT record (10 R28). -/
def OutRecord.text : OutRecord → Str
  | .int n => dec n
  | .str s => s

/-- Channel OUT rendered as text: each record's text after the one before, nothing between (10 R28). -/
def renderOut (records : List OutRecord) : Str := (records.map OutRecord.text).flatten

end Sys2Proof.Machine
end

