-- ==== Sys2Proof/Machine/Flags.lean ====
section
/-! DEFINITION. The zero-flag (10 R18): the only flag; there is no carry, sign or overflow flag. -/

namespace Sys2Proof.Machine

/-- `Z <- (r = 0)`, from the stored, wrapped result (43 R121). -/
def zeroFlag (r : Number) : Bool := decide (r = 0)

/-- The test of CMP_REG (45 R150): same variant and equal value; a Number and a String are not equal. -/
def sameValue : Value → Value → Bool
  | .number m, .number n => decide (m = n)
  | .string s, .string t => decide (s = t)
  | .number _, .string _ => false
  | .string _, .number _ => false

/-- The test of IS_STRING (45 R153). -/
def isStringValue : Value → Bool
  | .string _ => true
  | .number _ => false

/-- The test of IS_NUMBER (45 R154). -/
def isNumberValue : Value → Bool
  | .number _ => true
  | .string _ => false

end Sys2Proof.Machine
end

