-- ==== Sys2Proof/Machine/Arithmetic.lean ====
section
/-! DEFINITION. Arithmetic instructions (43_math.md): the nine three-register instructions, INC and DEC. Exact
results on integers, narrowed by `wrapW` (43 R121); bitwise operations on the 32-bit patterns. -/

namespace Sys2Proof.Machine

/-- `wrapW(a + b)` (43 R125). -/
def addW (a b : Number) : Number := wrapW (a.toInt + b.toInt)

/-- `wrapW(a - b)` (43 R126). -/
def subW (a b : Number) : Number := wrapW (a.toInt - b.toInt)

/-- `wrapW(a * b)` (43 R127). -/
def mulW (a b : Number) : Number := wrapW (a.toInt * b.toInt)

/-- `sdiv(a, b)` (43 R122): the quotient rounded toward zero, wrapped. Used for `b` not 0. -/
def sdivW (a b : Number) : Number := wrapW (a.toInt.tdiv b.toInt)

/-- `zext_5(b)`, the shift count (43 R123): the low five bits of the pattern. -/
def shiftCount (b : Number) : Nat := b.toNat % 32

/-- `shl(a, b)` (43 R123). -/
def shlW (a b : Number) : Number := wrapW (a.toInt * 2 ^ shiftCount b)

/-- `sar(a, b)` (43 R124): the floor of the quotient, an arithmetic shift. -/
def sarW (a b : Number) : Number := wrapW (a.toInt.fdiv (2 ^ shiftCount b))

/-- The end of every MATH instruction (43 R120): write the result, set Z from it, leave `n` bytes. -/
def storeResult (d : Reg) (r : Number) (n : Nat) (s : State) : Result :=
  .next (((s.setReg d (.number r)).setZ (zeroFlag r)).advance n)

/-- The operands of the three-register shape (43 R120): three register bytes, then the two typed reads. -/
def threeOperands (r1 r2 r3 : Byte) (s : State) (k : Reg → Reg → Number → Number → Result) : Result :=
  withReg r1 s fun d =>
  withReg r2 s fun s1 =>
  withReg r3 s fun s2 =>
  withNum s1 s fun a =>
  withNum s2 s fun b =>
  k d s2 a b

/-- The three-register shape with the function `f` (43 R120). -/
def threeRegister (f : Number → Number → Number) (r1 r2 r3 : Byte) (s : State) : Result :=
  threeOperands r1 r2 r3 s fun d _ a b => storeResult d (f a b) 4 s

/-- The one-register shape (43 R134, R135). -/
def oneRegister (f : Number → Number) (r1 : Byte) (s : State) : Result :=
  withReg r1 s fun i =>
  withNum i s fun n =>
  storeResult i (f n) 2 s

/-- MATH_ADD (43 R125). -/
def execMathAdd (r1 r2 r3 : Byte) (s : State) : Result := threeRegister addW r1 r2 r3 s

/-- MATH_SUB (43 R126): first source minus second. -/
def execMathSub (r1 r2 r3 : Byte) (s : State) : Result := threeRegister subW r1 r2 r3 s

/-- MATH_MUL (43 R127). -/
def execMathMul (r1 r2 r3 : Byte) (s : State) : Result := threeRegister mulW r1 r2 r3 s

/-- MATH_DIV (43 R128): a zero divisor raises DIV_ZERO with the divisor's register, after the typed reads. -/
def execMathDiv (r1 r2 r3 : Byte) (s : State) : Result :=
  threeOperands r1 r2 r3 s fun d s2 a b =>
  if b = 0 then raise s .divZero s2.val else storeResult d (sdivW a b) 4 s

/-- MATH_XOR (43 R129). -/
def execMathXor (r1 r2 r3 : Byte) (s : State) : Result := threeRegister (· ^^^ ·) r1 r2 r3 s

/-- MATH_AND (43 R130). -/
def execMathAnd (r1 r2 r3 : Byte) (s : State) : Result := threeRegister (· &&& ·) r1 r2 r3 s

/-- MATH_OR (43 R131). -/
def execMathOr (r1 r2 r3 : Byte) (s : State) : Result := threeRegister (· ||| ·) r1 r2 r3 s

/-- MATH_LFT (43 R132). -/
def execMathLft (r1 r2 r3 : Byte) (s : State) : Result := threeRegister shlW r1 r2 r3 s

/-- MATH_RGT (43 R133). -/
def execMathRgt (r1 r2 r3 : Byte) (s : State) : Result := threeRegister sarW r1 r2 r3 s

/-- MATH_INC (43 R134). -/
def execMathInc (r1 : Byte) (s : State) : Result := oneRegister (fun n => wrapW (n.toInt + 1)) r1 s

/-- MATH_DEC (43 R135). -/
def execMathDec (r1 : Byte) (s : State) : Result := oneRegister (fun n => wrapW (n.toInt - 1)) r1 s

end Sys2Proof.Machine
end

