-- ==== Sys2Proof/Machine/Compare.lean ====
section
/-! DEFINITION. Comparison instructions (45_compare.md): each writes Z, 1 when its test holds and 0 when it does
not, and nothing else. -/

namespace Sys2Proof.Machine

/-- CMP_REG (45 R150): no typed read, so no TYPE_MISMATCH. -/
def execCmpReg (r1 r2 : Byte) (s : State) : Result :=
  withReg r1 s fun a =>
  withReg r2 s fun b =>
  .next ((s.setZ (sameValue (s.reg a) (s.reg b))).advance 3)

/-- CMP_IMMEDIATE (45 R151): the immediate is zero-extended. -/
def execCmpImmediate (r1 : Byte) (imm : Half) (s : State) : Result :=
  withReg r1 s fun a =>
  withNum a s fun n =>
  .next ((s.setZ (decide (n = ofHalf imm))).advance 4)

/-- CMP_STRING (45 R152): exact byte equality. -/
def execCmpString (r1 : Byte) (lit : Str) (s : State) : Result :=
  withReg r1 s fun a =>
  withStr a s fun t =>
  .next ((s.setZ (decide (t = lit))).advance (4 + lit.length))

/-- IS_STRING (45 R153). -/
def execIsString (r1 : Byte) (s : State) : Result :=
  withReg r1 s fun a =>
  .next ((s.setZ (isStringValue (s.reg a))).advance 2)

/-- IS_NUMBER (45 R154). -/
def execIsNumber (r1 : Byte) (s : State) : Result :=
  withReg r1 s fun a =>
  .next ((s.setZ (isNumberValue (s.reg a))).advance 2)

end Sys2Proof.Machine
end

