-- ==== Sys2Proof/Machine/Control.lean ====
section
/-! DEFINITION. Control instructions (40_execution_and_control.md): EXIT, NOP. -/

namespace Sys2Proof.Machine

/-- EXIT (40 R95). -/
def execExit (s : State) : Result := .next (s.clearRunning.advance 1)

/-- NOP (40 R96). -/
def execNop (s : State) : Result := .next (s.advance 1)

end Sys2Proof.Machine
end

