-- ==== Sys2Proof/Machine/Fallback.lean ====
section
/-! DEFINITION. The unknown-opcode fallback (49_fallback.md): reported and skipped, no panic. -/

namespace Sys2Proof.Machine

/-- Unknown opcode `b` (49 R190): one byte long, no operand. -/
def execUnknown (b : Byte) (s : State) : Result := .next ((s.emitDiag (.unknownOpcode b)).advance 1)

end Sys2Proof.Machine
end

