-- ==== Sys2Proof/Machine/Jumps.lean ====
section
/-! DEFINITION. Jump instructions (42_jumps.md): JUMP_TO, JUMP_Z, JUMP_NZ. The target is absolute; a jump not
taken leaves `ip` after its two operand bytes. -/

namespace Sys2Proof.Machine

/-- JUMP_TO (42 R110). -/
def execJumpTo (imm : Half) (s : State) : Result := .next (s.setIp imm)

/-- A conditional jump: taken iff `c`. -/
def jumpIf (c : Bool) (imm : Half) (s : State) : Result := .next (if c then s.setIp imm else s.advance 3)

/-- JUMP_Z (42 R111): taken iff Z = 1. -/
def execJumpZ (imm : Half) (s : State) : Result := jumpIf s.z imm s

/-- JUMP_NZ (42 R112): taken iff Z = 0. -/
def execJumpNz (imm : Half) (s : State) : Result := jumpIf (!s.z) imm s

end Sys2Proof.Machine
end

