-- ==== Sys2Proof/Machine/MemoryInstr.lean ====
section
/-! DEFINITION. Memory instructions (47_memops.md): PEEK, POKE, MEMCPY. Register-indirect byte accesses; none
writes Z, sp or the stack (47 R168). -/

namespace Sys2Proof.Machine

/-- PEEK (47 R165): destination, then address register; the byte is zero-extended. -/
def execPeek (r1 r2 : Byte) (s : State) : Result :=
  withReg r1 s fun d =>
  withReg r2 s fun ar =>
  withNum ar s fun a =>
  withAddress a s fun addr =>
  .next ((s.setReg d (.number (ofByte (s.mem.read addr)))).advance 3)

/-- POKE (47 R166): value register, then address register; the low byte is stored. -/
def execPoke (r1 r2 : Byte) (s : State) : Result :=
  withReg r1 s fun vr =>
  withReg r2 s fun ar =>
  withNum vr s fun v =>
  withNum ar s fun a =>
  withAddress a s fun addr =>
  .next ((s.setMem (s.mem.write addr (lowByteOf v))).advance 3)

/-- MEMCPY (47 R167): destination, source, length registers; the typed reads and the sign tests go source,
destination, length; a length of 0 or less copies nothing. -/
def execMemcpy (r1 r2 r3 : Byte) (s : State) : Result :=
  withReg r1 s fun dr =>
  withReg r2 s fun sr =>
  withReg r3 s fun lr =>
  withNum sr s fun sv =>
  withNum dr s fun dv =>
  withNum lr s fun n =>
  withCopyAddress sv s fun src =>
  withCopyAddress dv s fun dst =>
  .next ((s.setMem (Memory.copy Config.copyWrap n.toInt.toNat src dst s.mem)).advance 4)

end Sys2Proof.Machine
end

