-- ==== Sys2Proof/Machine/StackInstr.lean ====
section
/-! DEFINITION. Stack instructions (48_stack.md): STACK_PUSH, STACK_POP, STACK_RET, STACK_CALL. Return addresses
and data share the one stack (10 R20). -/

namespace Sys2Proof.Machine

/-- STACK_PUSH (48 R175): the whole Number is pushed. -/
def execStackPush (r1 : Byte) (s : State) : Result :=
  withReg r1 s fun i =>
  withNum i s fun v =>
  withPush v s fun t =>
  .next (t.advance 2)

/-- STACK_POP (48 R176). -/
def execStackPop (r1 : Byte) (s : State) : Result :=
  withReg r1 s fun d =>
  withPop s fun v t =>
  .next ((t.setReg d (.number v)).advance 2)

/-- Where STACK_RET goes (48 R180): the popped value, or 0 if it is outside 0 to 65535. -/
def returnTarget (v : Number) : Addr :=
  if 0 ≤ v.toInt ∧ v.toInt ≤ 65535 then BitVec.ofInt 16 v.toInt else 0

/-- STACK_RET (48 R180). -/
def execStackRet (s : State) : Result :=
  withPop s fun v t =>
  .next (t.setIp (returnTarget v))

/-- The return address of a STACK_CALL whose opcode byte is at `ip` (48 R181): the address of its last byte plus
one, 1 to 65536, not reduced modulo 65536. -/
def returnAddress (ip : Addr) : Number := wrapW ((ip + 2).toNat + 1)

/-- STACK_CALL (48 R181). -/
def execStackCall (imm : Half) (s : State) : Result :=
  withPush (returnAddress s.ip) s fun t =>
  .next (t.setIp imm)

end Sys2Proof.Machine
end

