-- ==== Sys2Proof/Machine/Strings.lean ====
section
/-! DEFINITION. String instructions (44_string.md), and the number read from a decimal text. None writes Z, sp,
the stack or mem (44 R142). -/

namespace Sys2Proof.Machine

/-- White space that `parse_dec` skips (44 R147). -/
def isSpaceByte (b : Byte) : Bool :=
  b = 0x20 || b = 0x09 || b = 0x0A || b = 0x0B || b = 0x0C || b = 0x0D

/-- A decimal digit (44 R147). -/
def isDigitByte (b : Byte) : Bool := decide (0x30 ≤ b.toNat) && decide (b.toNat ≤ 0x39)

/-- The text after its leading white space. -/
def skipSpaces : Str → Str
  | [] => []
  | b :: t => if isSpaceByte b then skipSpaces t else b :: t

/-- The value of the digits at the front of a text, after `v`; it stops at the first byte that is no digit. -/
def parseDigits : Nat → Str → Nat
  | v, [] => v
  | v, b :: t => if isDigitByte b then parseDigits (10 * v + (b.toNat - 0x30)) t else v

/-- One sign, then digits. -/
def parseSigned : Str → Int
  | [] => 0
  | b :: t =>
    if b = 0x2D then -(parseDigits 0 t : Int)
    else if b = 0x2B then parseDigits 0 t
    else parseDigits 0 (b :: t)

/-- `parse_dec(t)` (44 R147). -/
def parseDec (t : Str) : Number := wrapW (parseSigned (skipSpaces t))

/-- STRING_STORE (44 R140): `4 + n` bytes long. -/
def execStringStore (r1 : Byte) (lit : Str) (s : State) : Result :=
  withReg r1 s fun d =>
  .next ((s.setReg d (.string lit)).advance (4 + lit.length))

/-- STRING_PRINT (44 R141). -/
def execStringPrint (r1 : Byte) (s : State) : Result :=
  withReg r1 s fun i =>
  withStr i s fun t =>
  .next ((s.emitOut (.str t)).advance 2)

/-- STRING_CONCAT (44 R143): the sources are read before the destination is written. -/
def execStringConcat (r1 r2 r3 : Byte) (s : State) : Result :=
  withReg r1 s fun d =>
  withReg r2 s fun s1 =>
  withReg r3 s fun s2 =>
  withStr s1 s fun a =>
  withStr s2 s fun b =>
  .next ((s.setReg d (.string (a ++ b))).advance 4)

/-- STRING_SYSTEM (44 R145): a HOST record, or with `fuzz_safe` a DIAG record; nothing comes back (log 12). -/
def execStringSystem (r1 : Byte) (s : State) : Result :=
  withReg r1 s fun i =>
  withStr i s fun t =>
  .next ((if s.fuzzSafe then s.emitDiag (.systemSkipped t) else s.emitHost (.system t)).advance 2)

/-- STRING_TOINT (44 R146): Z is not set, whatever the result. -/
def execStringToint (r1 : Byte) (s : State) : Result :=
  withReg r1 s fun i =>
  withStr i s fun t =>
  .next ((s.setReg i (.number (parseDec t))).advance 2)

end Sys2Proof.Machine
end

