-- ==== Sys2Proof/Machine/Transfer.lean ====
section
/-! DEFINITION. Register transfer (46_regmove.md): STORE_REG. -/

namespace Sys2Proof.Machine

/-- STORE_REG (46 R160): destination first; tag and value are copied; Z is unchanged. -/
def execStoreReg (r1 r2 : Byte) (s : State) : Result :=
  withReg r1 s fun d =>
  withReg r2 s fun r =>
  .next ((s.setReg d (s.reg r)).advance 3)

end Sys2Proof.Machine
end

