-- ==== Sys2Proof/Syntax.lean ====
section
/-! DEFINITION. The abstract syntax: one constructor per row of `spec/opcode_table.json`, with the operand
bytes in encoding order (30 R64, R67). A register operand is the whole operand BYTE, 0 to 255: a byte of 16 or
more is a legal encoding whose execution raises BAD_REGISTER (30 R66), so it is not shut out here. -/

namespace Sys2Proof

/-- An instruction: its operand bytes `r1`, `r2`, `r3` (register operands), a 16-bit operand `imm`, or the
bytes `lit` of an embedded string literal (its two length bytes are implied). -/
inductive Instr where
  /-- EXIT, rule R95. -/
  | exit
  /-- INT_STORE, rule R100: `r1` destination register; `imm` 16-bit immediate, zero-extended. -/
  | intStore (r1 : Byte) (imm : Half)
  /-- INT_PRINT, rule R101: `r1` source register (Number). -/
  | intPrint (r1 : Byte)
  /-- INT_TOSTRING, rule R102: `r1` register converted in place (Number to String). -/
  | intTostring (r1 : Byte)
  /-- INT_RANDOM, rule R103: `r1` destination register. -/
  | intRandom (r1 : Byte)
  /-- JUMP_TO, rule R110: `imm` absolute target address. -/
  | jumpTo (imm : Half)
  /-- JUMP_Z, rule R111: `imm` absolute target address, taken iff Z = 1. -/
  | jumpZ (imm : Half)
  /-- JUMP_NZ, rule R112: `imm` absolute target address, taken iff Z = 0. -/
  | jumpNz (imm : Half)
  /-- MATH_XOR, rule R129: `r1` destination register; `r2` first source, left operand (Number); `r3` second source, right operand (Number). -/
  | mathXor (r1 : Byte) (r2 : Byte) (r3 : Byte)
  /-- MATH_ADD, rule R125: `r1` destination register; `r2` first source, left operand (Number); `r3` second source, right operand (Number). -/
  | mathAdd (r1 : Byte) (r2 : Byte) (r3 : Byte)
  /-- MATH_SUB, rule R126: `r1` destination register; `r2` first source, left operand (Number); `r3` second source, right operand (Number). -/
  | mathSub (r1 : Byte) (r2 : Byte) (r3 : Byte)
  /-- MATH_MUL, rule R127: `r1` destination register; `r2` first source, left operand (Number); `r3` second source, right operand (Number). -/
  | mathMul (r1 : Byte) (r2 : Byte) (r3 : Byte)
  /-- MATH_DIV, rule R128: `r1` destination register; `r2` first source, left operand (Number); `r3` second source, right operand (Number). -/
  | mathDiv (r1 : Byte) (r2 : Byte) (r3 : Byte)
  /-- MATH_INC, rule R134: `r1` register incremented in place (Number). -/
  | mathInc (r1 : Byte)
  /-- MATH_DEC, rule R135: `r1` register decremented in place (Number). -/
  | mathDec (r1 : Byte)
  /-- MATH_AND, rule R130: `r1` destination register; `r2` first source, left operand (Number); `r3` second source, right operand (Number). -/
  | mathAnd (r1 : Byte) (r2 : Byte) (r3 : Byte)
  /-- MATH_OR, rule R131: `r1` destination register; `r2` first source, left operand (Number); `r3` second source, right operand (Number). -/
  | mathOr (r1 : Byte) (r2 : Byte) (r3 : Byte)
  /-- MATH_LFT, rule R132: `r1` destination register; `r2` first source, left operand (Number); `r3` second source, right operand (Number). -/
  | mathLft (r1 : Byte) (r2 : Byte) (r3 : Byte)
  /-- MATH_RGT, rule R133: `r1` destination register; `r2` first source, left operand (Number); `r3` second source, right operand (Number). -/
  | mathRgt (r1 : Byte) (r2 : Byte) (r3 : Byte)
  /-- STRING_STORE, rule R140: `r1` destination register; `lit` the string stored. -/
  | stringStore (r1 : Byte) (lit : List Byte)
  /-- STRING_PRINT, rule R141: `r1` source register (String). -/
  | stringPrint (r1 : Byte)
  /-- STRING_CONCAT, rule R143: `r1` destination register; `r2` first source (String); `r3` second source (String). -/
  | stringConcat (r1 : Byte) (r2 : Byte) (r3 : Byte)
  /-- STRING_SYSTEM, rule R145: `r1` source register (String), the command. -/
  | stringSystem (r1 : Byte)
  /-- STRING_TOINT, rule R146: `r1` register converted in place (String to Number). -/
  | stringToint (r1 : Byte)
  /-- CMP_REG, rule R150: `r1` first register compared (any variant); `r2` second register compared (any variant). -/
  | cmpReg (r1 : Byte) (r2 : Byte)
  /-- CMP_IMMEDIATE, rule R151: `r1` register compared (Number); `imm` 16-bit immediate, zero-extended. -/
  | cmpImmediate (r1 : Byte) (imm : Half)
  /-- CMP_STRING, rule R152: `r1` register compared (String); `lit` the string compared with. -/
  | cmpString (r1 : Byte) (lit : List Byte)
  /-- IS_STRING, rule R153: `r1` register tested. -/
  | isString (r1 : Byte)
  /-- IS_NUMBER, rule R154: `r1` register tested. -/
  | isNumber (r1 : Byte)
  /-- NOP, rule R96. -/
  | nop
  /-- STORE_REG, rule R160: `r1` destination register; `r2` source register (any variant). -/
  | storeReg (r1 : Byte) (r2 : Byte)
  /-- PEEK, rule R165: `r1` destination register; `r2` address register (Number). -/
  | peek (r1 : Byte) (r2 : Byte)
  /-- POKE, rule R166: `r1` value register (Number, low byte stored); `r2` address register (Number). -/
  | poke (r1 : Byte) (r2 : Byte)
  /-- MEMCPY, rule R167: `r1` register holding the destination address; `r2` register holding the source address; `r3` register holding the length. -/
  | memcpy (r1 : Byte) (r2 : Byte) (r3 : Byte)
  /-- STACK_PUSH, rule R175: `r1` source register (Number). -/
  | stackPush (r1 : Byte)
  /-- STACK_POP, rule R176: `r1` destination register. -/
  | stackPop (r1 : Byte)
  /-- STACK_RET, rule R180. -/
  | stackRet
  /-- STACK_CALL, rule R181: `imm` absolute target address. -/
  | stackCall (imm : Half)
  /-- UNKNOWN, rule R190: the fallback for every opcode byte `b` with no instruction. -/
  | unknown (b : Byte)
  deriving DecidableEq, Repr

end Sys2Proof
end

