-- ==== Sys2Proof/Machine/Dispatch.lean ====
section
/-! DEFINITION. The dispatch: one arm per constructor of Instr, each ONE direct call of that instruction's
meaning (40 R91). No arm is rejected by name. -/

namespace Sys2Proof.Machine

def exec (i : Instr) (s : State) : Host.Outcome State Fault Refusal :=
  match i with
  | .exit => Sys2Proof.Machine.execExit s
  | .intStore r1 imm => Sys2Proof.Machine.execIntStore r1 imm s
  | .intPrint r1 => Sys2Proof.Machine.execIntPrint r1 s
  | .intTostring r1 => Sys2Proof.Machine.execIntTostring r1 s
  | .intRandom r1 => Sys2Proof.Machine.execIntRandom r1 s
  | .jumpTo imm => Sys2Proof.Machine.execJumpTo imm s
  | .jumpZ imm => Sys2Proof.Machine.execJumpZ imm s
  | .jumpNz imm => Sys2Proof.Machine.execJumpNz imm s
  | .mathXor r1 r2 r3 => Sys2Proof.Machine.execMathXor r1 r2 r3 s
  | .mathAdd r1 r2 r3 => Sys2Proof.Machine.execMathAdd r1 r2 r3 s
  | .mathSub r1 r2 r3 => Sys2Proof.Machine.execMathSub r1 r2 r3 s
  | .mathMul r1 r2 r3 => Sys2Proof.Machine.execMathMul r1 r2 r3 s
  | .mathDiv r1 r2 r3 => Sys2Proof.Machine.execMathDiv r1 r2 r3 s
  | .mathInc r1 => Sys2Proof.Machine.execMathInc r1 s
  | .mathDec r1 => Sys2Proof.Machine.execMathDec r1 s
  | .mathAnd r1 r2 r3 => Sys2Proof.Machine.execMathAnd r1 r2 r3 s
  | .mathOr r1 r2 r3 => Sys2Proof.Machine.execMathOr r1 r2 r3 s
  | .mathLft r1 r2 r3 => Sys2Proof.Machine.execMathLft r1 r2 r3 s
  | .mathRgt r1 r2 r3 => Sys2Proof.Machine.execMathRgt r1 r2 r3 s
  | .stringStore r1 lit => Sys2Proof.Machine.execStringStore r1 lit s
  | .stringPrint r1 => Sys2Proof.Machine.execStringPrint r1 s
  | .stringConcat r1 r2 r3 => Sys2Proof.Machine.execStringConcat r1 r2 r3 s
  | .stringSystem r1 => Sys2Proof.Machine.execStringSystem r1 s
  | .stringToint r1 => Sys2Proof.Machine.execStringToint r1 s
  | .cmpReg r1 r2 => Sys2Proof.Machine.execCmpReg r1 r2 s
  | .cmpImmediate r1 imm => Sys2Proof.Machine.execCmpImmediate r1 imm s
  | .cmpString r1 lit => Sys2Proof.Machine.execCmpString r1 lit s
  | .isString r1 => Sys2Proof.Machine.execIsString r1 s
  | .isNumber r1 => Sys2Proof.Machine.execIsNumber r1 s
  | .nop => Sys2Proof.Machine.execNop s
  | .storeReg r1 r2 => Sys2Proof.Machine.execStoreReg r1 r2 s
  | .peek r1 r2 => Sys2Proof.Machine.execPeek r1 r2 s
  | .poke r1 r2 => Sys2Proof.Machine.execPoke r1 r2 s
  | .memcpy r1 r2 r3 => Sys2Proof.Machine.execMemcpy r1 r2 r3 s
  | .stackPush r1 => Sys2Proof.Machine.execStackPush r1 s
  | .stackPop r1 => Sys2Proof.Machine.execStackPop r1 s
  | .stackRet => Sys2Proof.Machine.execStackRet s
  | .stackCall imm => Sys2Proof.Machine.execStackCall imm s
  | .unknown b => Sys2Proof.Machine.execUnknown b s

end Sys2Proof.Machine
end

