-- ==== Sys2Proof/WellFormed.lean ====
section
/-! DEFINITION. Which instructions have an encoding under an opcode map: a literal's length must fit its two
length bytes (30 R62, 0 to 65535), and an `unknown` byte must be no instruction's opcode (49 R190). Every
register byte and every 16-bit operand is legal (30 R71). -/

namespace Sys2Proof

/-- A literal's length fits the 16-bit length field (30 R61, R62). -/
def literalFits (lit : List Byte) : Bool := decide (lit.length ≤ 65535)

/-- `b` is the opcode of none of the 38 instructions (49 R190). -/
def unassigned (opc : OpcodeMap) (b : Byte) : Bool := Mnemonic.all.all fun m => opc m != b

/-- The instruction has an encoding under the opcode map `opc`. -/
def Instr.wellFormed (opc : OpcodeMap) : Instr → Bool
  | .exit => true
  | .intStore _ _ => true
  | .intPrint _ => true
  | .intTostring _ => true
  | .intRandom _ => true
  | .jumpTo _ => true
  | .jumpZ _ => true
  | .jumpNz _ => true
  | .mathXor _ _ _ => true
  | .mathAdd _ _ _ => true
  | .mathSub _ _ _ => true
  | .mathMul _ _ _ => true
  | .mathDiv _ _ _ => true
  | .mathInc _ => true
  | .mathDec _ => true
  | .mathAnd _ _ _ => true
  | .mathOr _ _ _ => true
  | .mathLft _ _ _ => true
  | .mathRgt _ _ _ => true
  | .stringStore _ lit => literalFits lit
  | .stringPrint _ => true
  | .stringConcat _ _ _ => true
  | .stringSystem _ => true
  | .stringToint _ => true
  | .cmpReg _ _ => true
  | .cmpImmediate _ _ => true
  | .cmpString _ lit => literalFits lit
  | .isString _ => true
  | .isNumber _ => true
  | .nop => true
  | .storeReg _ _ => true
  | .peek _ _ => true
  | .poke _ _ => true
  | .memcpy _ _ _ => true
  | .stackPush _ => true
  | .stackPop _ => true
  | .stackRet => true
  | .stackCall _ => true
  | .unknown b => unassigned opc b

end Sys2Proof
end

