-- ==== Sys2Proof/Decode.lean ====
section
/-! DEFINITION. The decoder and the encoder (30 R60 to R74), written for any opcode map, and the default map
of 30 R70 they are used with. Decoding is total over the opcode bytes (30 R68, 49 R191): it rejects, by name,
only a byte sequence that ends before the instruction does, which cannot happen in memory, where the fetch
wraps (30 R74). -/

namespace Sys2Proof

/-- Why a byte sequence is no instruction: it is too short. Never a reserved encoding (30 R71). -/
inductive DecodeError where
  /-- There is no opcode byte. -/
  | noOpcode
  /-- The opcode byte selects this instruction, whose operand bytes are not all there. -/
  | truncated (m : Mnemonic)
  deriving DecidableEq, Repr

/-- The seven instruction formats of 30 R64. -/
inductive Format where
  | op | opR | opRR | opRRR | opI | opRI | opRS
  deriving DecidableEq, Repr

/-- The default opcode map of 30 R70 (the spec's decision D1; log 6). -/
def Config.opc : OpcodeMap
  | .exit => 0x00
  | .intStore => 0x01
  | .intPrint => 0x02
  | .intTostring => 0x03
  | .intRandom => 0x04
  | .jumpTo => 0x10
  | .jumpZ => 0x11
  | .jumpNz => 0x12
  | .mathXor => 0x20
  | .mathAdd => 0x21
  | .mathSub => 0x22
  | .mathMul => 0x23
  | .mathDiv => 0x24
  | .mathInc => 0x25
  | .mathDec => 0x26
  | .mathAnd => 0x27
  | .mathOr => 0x28
  | .mathLft => 0x29
  | .mathRgt => 0x2a
  | .stringStore => 0x30
  | .stringPrint => 0x31
  | .stringConcat => 0x32
  | .stringSystem => 0x33
  | .stringToint => 0x34
  | .cmpReg => 0x40
  | .cmpImmediate => 0x41
  | .cmpString => 0x42
  | .isString => 0x43
  | .isNumber => 0x44
  | .nop => 0x50
  | .storeReg => 0x51
  | .peek => 0x60
  | .poke => 0x61
  | .memcpy => 0x62
  | .stackPush => 0x70
  | .stackPop => 0x71
  | .stackRet => 0x72
  | .stackCall => 0x73

/-- The format of each instruction (30 R65, R70). -/
def Mnemonic.format : Mnemonic → Format
  | .exit => .op
  | .intStore => .opRI
  | .intPrint => .opR
  | .intTostring => .opR
  | .intRandom => .opR
  | .jumpTo => .opI
  | .jumpZ => .opI
  | .jumpNz => .opI
  | .mathXor => .opRRR
  | .mathAdd => .opRRR
  | .mathSub => .opRRR
  | .mathMul => .opRRR
  | .mathDiv => .opRRR
  | .mathInc => .opR
  | .mathDec => .opR
  | .mathAnd => .opRRR
  | .mathOr => .opRRR
  | .mathLft => .opRRR
  | .mathRgt => .opRRR
  | .stringStore => .opRS
  | .stringPrint => .opR
  | .stringConcat => .opRRR
  | .stringSystem => .opR
  | .stringToint => .opR
  | .cmpReg => .opRR
  | .cmpImmediate => .opRI
  | .cmpString => .opRS
  | .isString => .opR
  | .isNumber => .opR
  | .nop => .op
  | .storeReg => .opRR
  | .peek => .opRR
  | .poke => .opRR
  | .memcpy => .opRRR
  | .stackPush => .opR
  | .stackPop => .opR
  | .stackRet => .op
  | .stackCall => .opI

/-- 30 R68: the opcode byte alone selects the instruction; `none` is the fallback of 49 R190. -/
def Mnemonic.ofByte? (opc : OpcodeMap) (b : Byte) : Option Mnemonic :=
  Mnemonic.all.find? fun m => opc m == b

/-- 30 R61: `lo + 256*hi`, the byte at the lower address first (20 R43). -/
def imm16 (lo hi : Byte) : Half := BitVec.ofNat 16 (lo.toNat + 256 * hi.toNat)

/-- The low byte of a 16-bit operand, the one that stands first. -/
def lowByte (v : Half) : Byte := BitVec.ofNat 8 v.toNat

/-- The high byte of a 16-bit operand. -/
def highByte (v : Half) : Byte := BitVec.ofNat 8 (v.toNat / 256)

/-- 30 R65: the length in bytes of the instruction with opcode byte `op`; the bytes at offsets 2 and 3 take
part for format `OP_RS` only, where they are the literal's length. -/
def instrBytes (opc : OpcodeMap) (op b2 b3 : Byte) : Nat :=
  match Mnemonic.ofByte? opc op with
  | none => 1
  | some m =>
    match m.format with
    | .op => 1
    | .opR => 2
    | .opRR => 3
    | .opRRR => 4
    | .opI => 3
    | .opRI => 4
    | .opRS => 4 + (imm16 b2 b3).toNat

/-- What a decoder answers: the instruction and the bytes after it, or why there is none. -/
abbrev Decoded := Except DecodeError (Instr × List Byte)

/-- Operands of format `OP_R`. -/
def takeR (m : Mnemonic) (f : Byte → Instr) : List Byte → Decoded
  | r1 :: rest => .ok (f r1, rest)
  | [] => .error (.truncated m)

/-- Operands of format `OP_RR`. -/
def takeRR (m : Mnemonic) (f : Byte → Byte → Instr) : List Byte → Decoded
  | r1 :: r2 :: rest => .ok (f r1 r2, rest)
  | _ => .error (.truncated m)

/-- Operands of format `OP_RRR`. -/
def takeRRR (m : Mnemonic) (f : Byte → Byte → Byte → Instr) : List Byte → Decoded
  | r1 :: r2 :: r3 :: rest => .ok (f r1 r2 r3, rest)
  | _ => .error (.truncated m)

/-- Operands of format `OP_I`. -/
def takeI (m : Mnemonic) (f : Half → Instr) : List Byte → Decoded
  | lo :: hi :: rest => .ok (f (imm16 lo hi), rest)
  | _ => .error (.truncated m)

/-- Operands of format `OP_RI`. -/
def takeRI (m : Mnemonic) (f : Byte → Half → Instr) : List Byte → Decoded
  | r1 :: lo :: hi :: rest => .ok (f r1 (imm16 lo hi), rest)
  | _ => .error (.truncated m)

/-- Operands of format `OP_RS`: a register byte and a string literal (30 R62), two length bytes and that many
raw bytes, any byte value among them. -/
def takeRS (m : Mnemonic) (f : Byte → List Byte → Instr) : List Byte → Decoded
  | r1 :: lo :: hi :: rest =>
    let n := (imm16 lo hi).toNat
    if n ≤ rest.length then .ok (f r1 (rest.take n), rest.drop n) else .error (.truncated m)
  | _ => .error (.truncated m)

/-- The operand bytes of the instruction `m`, in the order of 30 R67. -/
def decodeOperands (m : Mnemonic) (bytes : List Byte) : Decoded :=
  match m with
  | .exit => .ok (.exit, bytes)
  | .intStore => takeRI m .intStore bytes
  | .intPrint => takeR m .intPrint bytes
  | .intTostring => takeR m .intTostring bytes
  | .intRandom => takeR m .intRandom bytes
  | .jumpTo => takeI m .jumpTo bytes
  | .jumpZ => takeI m .jumpZ bytes
  | .jumpNz => takeI m .jumpNz bytes
  | .mathXor => takeRRR m .mathXor bytes
  | .mathAdd => takeRRR m .mathAdd bytes
  | .mathSub => takeRRR m .mathSub bytes
  | .mathMul => takeRRR m .mathMul bytes
  | .mathDiv => takeRRR m .mathDiv bytes
  | .mathInc => takeR m .mathInc bytes
  | .mathDec => takeR m .mathDec bytes
  | .mathAnd => takeRRR m .mathAnd bytes
  | .mathOr => takeRRR m .mathOr bytes
  | .mathLft => takeRRR m .mathLft bytes
  | .mathRgt => takeRRR m .mathRgt bytes
  | .stringStore => takeRS m .stringStore bytes
  | .stringPrint => takeR m .stringPrint bytes
  | .stringConcat => takeRRR m .stringConcat bytes
  | .stringSystem => takeR m .stringSystem bytes
  | .stringToint => takeR m .stringToint bytes
  | .cmpReg => takeRR m .cmpReg bytes
  | .cmpImmediate => takeRI m .cmpImmediate bytes
  | .cmpString => takeRS m .cmpString bytes
  | .isString => takeR m .isString bytes
  | .isNumber => takeR m .isNumber bytes
  | .nop => .ok (.nop, bytes)
  | .storeReg => takeRR m .storeReg bytes
  | .peek => takeRR m .peek bytes
  | .poke => takeRR m .poke bytes
  | .memcpy => takeRRR m .memcpy bytes
  | .stackPush => takeR m .stackPush bytes
  | .stackPop => takeR m .stackPop bytes
  | .stackRet => .ok (.stackRet, bytes)
  | .stackCall => takeI m .stackCall bytes

/-- The decoder for the opcode map `opc` (30 R68). -/
def decodeWith (opc : OpcodeMap) : List Byte → Decoded
  | [] => .error .noOpcode
  | b :: rest =>
    match Mnemonic.ofByte? opc b with
    | none => .ok (.unknown b, rest)
    | some m => decodeOperands m rest

/-- The decoder of the machine: the default opcode map. -/
def decode (bytes : List Byte) : Decoded := decodeWith Config.opc bytes

/-- The bytes of a 16-bit operand in memory order (30 R61). -/
def halfBytes (v : Half) : List Byte := [lowByte v, highByte v]

/-- The bytes of a string literal (30 R62): two length bytes, then the bytes of the string. -/
def literalBytes (lit : List Byte) : List Byte := halfBytes (BitVec.ofNat 16 lit.length) ++ lit

/-- The encoder for the opcode map `opc` (30 R64, R67). -/
def encodeWith (opc : OpcodeMap) : Instr → List Byte
  | .exit => [opc .exit]
  | .intStore r1 imm => [opc .intStore, r1] ++ halfBytes imm
  | .intPrint r1 => [opc .intPrint, r1]
  | .intTostring r1 => [opc .intTostring, r1]
  | .intRandom r1 => [opc .intRandom, r1]
  | .jumpTo imm => [opc .jumpTo] ++ halfBytes imm
  | .jumpZ imm => [opc .jumpZ] ++ halfBytes imm
  | .jumpNz imm => [opc .jumpNz] ++ halfBytes imm
  | .mathXor r1 r2 r3 => [opc .mathXor, r1, r2, r3]
  | .mathAdd r1 r2 r3 => [opc .mathAdd, r1, r2, r3]
  | .mathSub r1 r2 r3 => [opc .mathSub, r1, r2, r3]
  | .mathMul r1 r2 r3 => [opc .mathMul, r1, r2, r3]
  | .mathDiv r1 r2 r3 => [opc .mathDiv, r1, r2, r3]
  | .mathInc r1 => [opc .mathInc, r1]
  | .mathDec r1 => [opc .mathDec, r1]
  | .mathAnd r1 r2 r3 => [opc .mathAnd, r1, r2, r3]
  | .mathOr r1 r2 r3 => [opc .mathOr, r1, r2, r3]
  | .mathLft r1 r2 r3 => [opc .mathLft, r1, r2, r3]
  | .mathRgt r1 r2 r3 => [opc .mathRgt, r1, r2, r3]
  | .stringStore r1 lit => [opc .stringStore, r1] ++ literalBytes lit
  | .stringPrint r1 => [opc .stringPrint, r1]
  | .stringConcat r1 r2 r3 => [opc .stringConcat, r1, r2, r3]
  | .stringSystem r1 => [opc .stringSystem, r1]
  | .stringToint r1 => [opc .stringToint, r1]
  | .cmpReg r1 r2 => [opc .cmpReg, r1, r2]
  | .cmpImmediate r1 imm => [opc .cmpImmediate, r1] ++ halfBytes imm
  | .cmpString r1 lit => [opc .cmpString, r1] ++ literalBytes lit
  | .isString r1 => [opc .isString, r1]
  | .isNumber r1 => [opc .isNumber, r1]
  | .nop => [opc .nop]
  | .storeReg r1 r2 => [opc .storeReg, r1, r2]
  | .peek r1 r2 => [opc .peek, r1, r2]
  | .poke r1 r2 => [opc .poke, r1, r2]
  | .memcpy r1 r2 r3 => [opc .memcpy, r1, r2, r3]
  | .stackPush r1 => [opc .stackPush, r1]
  | .stackPop r1 => [opc .stackPop, r1]
  | .stackRet => [opc .stackRet]
  | .stackCall imm => [opc .stackCall] ++ halfBytes imm
  | .unknown b => [b]

/-- The encoder under the default opcode map. -/
def encode (i : Instr) : List Byte := encodeWith Config.opc i

/-- The bytes of an instruction given as a number, lowest byte first, its bits from `nbits` on taken as 0, as
many as the number gives or the instruction needs, whichever is more. -/
def tableBytes (nbits w : Nat) : List Byte :=
  let v := w % 2 ^ nbits
  let byteAt := fun k => BitVec.ofNat 8 (v / 2 ^ (8 * k))
  let len := instrBytes Config.opc (byteAt 0) (byteAt 2) (byteAt 3)
  (List.range (max ((nbits + 7) / 8) len)).map byteAt

/-- The instruction the decoder reads from a word numbered as `spec/opcode_table.json` numbers it. -/
def decodeTableWord (nbits w : Nat) : Option Instr :=
  match decode (tableBytes nbits w) with
  | .ok (i, _) => some i
  | .error _ => none

end Sys2Proof
end

