-- ==== Sys2Proof/Machine/Fetch.lean ====
section
/-! DEFINITION. Fetching an instruction's bytes from memory (30 R60, R65, R74). -/

namespace Sys2Proof.Machine

/-- How many bytes the instruction at `a` has: the opcode byte decides, and for a literal its two length bytes
(30 R65). -/
def fetchCount (opc : OpcodeMap) (m : Memory) (a : Addr) : Nat :=
  instrBytes opc (m.read a) (m.read (a + 2)) (m.read (a + 3))

/-- The bytes of the instruction at `a`, as the operand fetches read them at the time of the dispatch (20 R51),
the k-th at `(a + k) mod 65536` (30 R60). -/
def fetch (opc : OpcodeMap) (m : Memory) (a : Addr) : List Byte := m.readBytes a (fetchCount opc m a)

end Sys2Proof.Machine
end

