-- ==== Sys2Proof/Machine/Loop.lean ====
section
/-! DEFINITION. What the loop of 40 R90 does around a dispatch: the count, the cap test, and the end of a run. -/

namespace Sys2Proof.Machine

/-- The count and the cap test after a dispatch that completed (40 R93). -/
def State.counted (t : State) : State :=
  { t with
    icount := t.icount + 1
    running := t.running && !decide (0 < t.cap ∧ t.cap ≤ (t.icount + 1 : Nat)) }

/-- The loop's own test (40 R90): it is left, to phase STOPPED, when `running` is 0. -/
def State.loopTest (t : State) : State := if t.running then t else { t with phase := .stopped }

/-- After a dispatch: a panic leaves the loop at once and is not counted (40 R90, 60 R204); any other instruction
is counted and the loop tested (log 15). -/
def State.afterDispatch (t : State) : State := if t.phase = .panicked then t else t.counted.loopTest

/-- `afterDispatch` on what a meaning answers. -/
def afterExec : Result → Result
  | .next t => .next t.afterDispatch
  | .fault r => .fault r
  | .refused r => .refused r

end Sys2Proof.Machine
end

