-- ==== Sys2Proof/Machine/Step.lean ====
section
/-! DEFINITION. One step of the machine, and the placing of one instruction where the next step fetches. -/

namespace Sys2Proof.Machine

/-- One dispatch (40 R91): the instruction at `ip` runs, and the loop counts it. -/
def dispatch (opc : OpcodeMap) (s : State) : Result :=
  match decodeWith opc (fetch opc s.mem s.ip) with
  | .ok (i, _) => afterExec (exec i s)
  | .error _ => .fault .decodeRejected

/-- One step under the opcode map `opc`: in phase EXECUTING the loop of 40 R90, in every other phase the host's
move (10 R22, R33). -/
def stepWith (opc : OpcodeMap) (s : State) : Result :=
  if s.phase = .executing then
    if s.running then dispatch opc s else .next s.loopTest
  else .next s.hostMove

/-- One step of the machine, under the default opcode map (30 R70; log 6). -/
def step (s : State) : Host.Outcome State Fault Refusal := stepWith Config.opc s

/-- Place one instruction, given as a number, where the next step fetches, and let the loop run: its bytes from
`ip` on, phase EXECUTING and `running`, which a CREATE of its image and a RUN would bring about (log 1). -/
def State.withFetchWord (s : State) (nbits w : Nat) : State :=
  { s with
    mem := s.mem.writeBytes s.ip (tableBytes nbits w)
    phase := .executing
    running := true }

end Sys2Proof.Machine
end

