-- ==== Sys2Proof/Safety.lean ====
section
/-! DEFINITION. The words claims are stated in: panics and completion, the invariant of the machine, and the
spec's tables of which instruction writes what and which panic it can raise. -/

namespace Sys2Proof.Machine

/-! ### Completion, panics, decoding -/

/-- Instruction `i`, begun in `s`, raises `Panic(cause, info)`: nothing it would have written is kept, `ip` stays on
its opcode byte, the fault is latched, `running` is 0, the phase PANICKED, and PANIC has one record more (60 R204). -/
def Raises (i : Instr) (s : State) (cause : Cause) (info : Int) : Prop :=
  exec i s = .next
    { s with
      fault := some ⟨cause, info⟩
      running := false
      phase := .panicked
      panicCh := s.panicCh ++ [⟨cause, info⟩] }

/-- Instruction `i`, begun in `s`, runs to its end in `t`. -/
def Completes (i : Instr) (s t : State) : Prop := exec i s = .next t

/-- The operand byte that names register `r` (30 R66). -/
def regByte (r : Reg) : Byte := BitVec.ofNat 8 r.val

/-- A register byte of 16 or more (30 R66). -/
abbrev BadByte (b : Byte) : Prop := 16 ≤ b.toNat

/-- The opcode byte of `m` is `byte` by default (30 R70), and under every injective opcode map the opcode byte of `m`
followed by these operand bytes is `i`, and what follows is left over (30 R64, R68). -/
def DecodesAs (m : Mnemonic) (byte : Byte) (operands : List Byte) (i : Instr) : Prop :=
  Config.opc m = byte ∧
  ∀ opc : OpcodeMap, opc.Injective → ∀ rest, decodeWith opc (opc m :: (operands ++ rest)) = .ok (i, rest)

/-- `r` is the 32-bit two's complement number congruent to the integer `v` modulo 2^32: `wrapW(v)` of 00 R7. -/
def WrapsTo (v : Int) (r : Number) : Prop := (r.toInt - v) % 4294967296 = 0

/-- The three-register shape (43 R120) with the opcode `m`, by default `byte`, and the constructor `mk`: decoding, the checks of the
three register bytes in encoding order, then the two typed reads in order, and then, if `stops` does not hold of
the operands, a completion that writes the result `r` with `result a b r` to the destination and sets Z iff it is
0. The destination's old content is not looked at. -/
def ThreeRegisterRule (m : Mnemonic) (byte : Byte) (mk : Byte → Byte → Byte → Instr) (stops : Number → Number → Prop)
    (result : Number → Number → Number → Prop) : Prop :=
  (∀ b1 b2 b3, DecodesAs m byte [b1, b2, b3] (mk b1 b2 b3)) ∧
  (∀ s b1 b2 b3, BadByte b1 → Raises (mk b1 b2 b3) s .badRegister b1.toNat) ∧
  (∀ s (d : Reg) b2 b3, BadByte b2 → Raises (mk (regByte d) b2 b3) s .badRegister b2.toNat) ∧
  (∀ s (d s1 : Reg) b3, BadByte b3 → Raises (mk (regByte d) (regByte s1) b3) s .badRegister b3.toNat) ∧
  (∀ (s : State) (d s1 s2 : Reg) t, s.regs[s1] = .string t →
    Raises (mk (regByte d) (regByte s1) (regByte s2)) s .typeMismatch s1.val) ∧
  (∀ (s : State) (d s1 s2 : Reg) a t, s.regs[s1] = .number a → s.regs[s2] = .string t →
    Raises (mk (regByte d) (regByte s1) (regByte s2)) s .typeMismatch s2.val) ∧
  (∀ (s : State) (d s1 s2 : Reg) a b, s.regs[s1] = .number a → s.regs[s2] = .number b → ¬ stops a b →
    ∃ r, result a b r ∧ Completes (mk (regByte d) (regByte s1) (regByte s2)) s
      { s with regs := s.regs.set d (.number r), z := decide (r.toInt = 0), ip := s.ip + 4 })

/-- The one-register shape (43 R134, R135), in the same way. -/
def OneRegisterRule (m : Mnemonic) (byte : Byte) (mk : Byte → Instr) (result : Number → Number → Prop) : Prop :=
  (∀ b, DecodesAs m byte [b] (mk b)) ∧
  (∀ s b, BadByte b → Raises (mk b) s .badRegister b.toNat) ∧
  (∀ (s : State) (i : Reg) t, s.regs[i] = .string t → Raises (mk (regByte i)) s .typeMismatch i.val) ∧
  (∀ (s : State) (i : Reg) n, s.regs[i] = .number n →
    ∃ r, result n r ∧ Completes (mk (regByte i)) s
      { s with regs := s.regs.set i (.number r), z := decide (r.toInt = 0), ip := s.ip + 2 })

/-! ### Decimal text -/

/-- Every byte is an ASCII decimal digit. -/
def AllDigits (t : Str) : Prop := ∀ b ∈ t, 0x30 ≤ b.toNat ∧ b.toNat ≤ 0x39

/-- The number a text of digits stands for, most significant digit first. -/
def digitsValue (t : Str) : Nat := t.foldl (fun v b => 10 * v + (b.toNat - 0x30)) 0

/-- White space of 44 R147. -/
abbrev SpaceByte (b : Byte) : Prop := b ∈ [0x20#8, 0x09#8, 0x0A#8, 0x0B#8, 0x0C#8, 0x0D#8]

/-! ### What an instruction may write (10 R15, R17, R18, R19; 20 R42; 60 R201) -/

/-- The register operand byte an instruction writes (10 R15). -/
def destination : Instr → Option Byte
  | .intStore r1 _ | .intTostring r1 | .intRandom r1 => some r1
  | .mathAdd r1 _ _ | .mathSub r1 _ _ | .mathMul r1 _ _ | .mathDiv r1 _ _ => some r1
  | .mathXor r1 _ _ | .mathAnd r1 _ _ | .mathOr r1 _ _ | .mathLft r1 _ _ | .mathRgt r1 _ _ => some r1
  | .mathInc r1 | .mathDec r1 => some r1
  | .stringStore r1 _ | .stringConcat r1 _ _ | .stringToint r1 => some r1
  | .storeReg r1 _ | .peek r1 _ | .stackPop r1 => some r1
  | .exit | .nop | .intPrint _ | .jumpTo _ | .jumpZ _ | .jumpNz _ => none
  | .stringPrint _ | .stringSystem _ => none
  | .cmpReg _ _ | .cmpImmediate _ _ | .cmpString _ _ | .isString _ | .isNumber _ => none
  | .poke _ _ | .memcpy _ _ _ | .stackPush _ | .stackRet | .stackCall _ | .unknown _ => none

/-- The instructions that write Z: the eleven MATH and the five comparisons (10 R18). -/
def writesZ : Instr → Bool
  | .mathAdd _ _ _ | .mathSub _ _ _ | .mathMul _ _ _ | .mathDiv _ _ _ => true
  | .mathXor _ _ _ | .mathAnd _ _ _ | .mathOr _ _ _ | .mathLft _ _ _ | .mathRgt _ _ _ => true
  | .mathInc _ | .mathDec _ => true
  | .cmpReg _ _ | .cmpImmediate _ _ | .cmpString _ _ | .isString _ | .isNumber _ => true
  | .exit | .nop | .intStore _ _ | .intPrint _ | .intTostring _ | .intRandom _ => false
  | .jumpTo _ | .jumpZ _ | .jumpNz _ => false
  | .stringStore _ _ | .stringPrint _ | .stringConcat _ _ _ | .stringSystem _ | .stringToint _ => false
  | .storeReg _ _ | .peek _ _ | .poke _ _ | .memcpy _ _ _ => false
  | .stackPush _ | .stackPop _ | .stackRet | .stackCall _ | .unknown _ => false

/-- The instructions that set `ip` themselves, whether or not they do so in every state (10 R17). -/
def setsIp : Instr → Bool
  | .jumpTo _ | .jumpZ _ | .jumpNz _ | .stackRet | .stackCall _ => true
  | .exit | .nop | .intStore _ _ | .intPrint _ | .intTostring _ | .intRandom _ => false
  | .mathAdd _ _ _ | .mathSub _ _ _ | .mathMul _ _ _ | .mathDiv _ _ _ => false
  | .mathXor _ _ _ | .mathAnd _ _ _ | .mathOr _ _ _ | .mathLft _ _ _ | .mathRgt _ _ _ => false
  | .mathInc _ | .mathDec _ => false
  | .cmpReg _ _ | .cmpImmediate _ _ | .cmpString _ _ | .isString _ | .isNumber _ => false
  | .stringStore _ _ | .stringPrint _ | .stringConcat _ _ _ | .stringSystem _ | .stringToint _ => false
  | .storeReg _ _ | .peek _ _ | .poke _ _ | .memcpy _ _ _ => false
  | .stackPush _ | .stackPop _ | .unknown _ => false

/-- The panic causes each instruction can raise (60 R201). -/
def causesOf : Instr → List Cause
  | .exit | .nop | .jumpTo _ | .jumpZ _ | .jumpNz _ | .unknown _ => []
  | .intStore _ _ | .intRandom _ | .stringStore _ _ | .storeReg _ _ => [.badRegister]
  | .cmpReg _ _ | .isString _ | .isNumber _ => [.badRegister]
  | .intPrint _ | .intTostring _ | .mathInc _ | .mathDec _ => [.badRegister, .typeMismatch]
  | .mathAdd _ _ _ | .mathSub _ _ _ | .mathMul _ _ _ => [.badRegister, .typeMismatch]
  | .mathXor _ _ _ | .mathAnd _ _ _ | .mathOr _ _ _ => [.badRegister, .typeMismatch]
  | .mathLft _ _ _ | .mathRgt _ _ _ => [.badRegister, .typeMismatch]
  | .mathDiv _ _ _ => [.badRegister, .typeMismatch, .divZero]
  | .stringPrint _ | .stringSystem _ | .stringToint _ | .cmpString _ _ => [.badRegister, .typeMismatch]
  | .stringConcat _ _ _ | .cmpImmediate _ _ => [.badRegister, .typeMismatch]
  | .peek _ _ | .poke _ _ => [.badRegister, .typeMismatch, .addressRange]
  | .memcpy _ _ _ => [.badRegister, .typeMismatch, .negativeCopy]
  | .stackPush _ => [.badRegister, .typeMismatch, .stackOverflow]
  | .stackPop _ => [.badRegister, .stackUnderflow]
  | .stackRet => [.stackUnderflow]
  | .stackCall _ => [.stackOverflow]

/-- The register operand bytes of an instruction, in encoding order (30 R66, R67). -/
def registerOperands : Instr → List Byte
  | .exit | .nop | .jumpTo _ | .jumpZ _ | .jumpNz _ | .stackRet | .stackCall _ | .unknown _ => []
  | .intStore r1 _ | .intPrint r1 | .intTostring r1 | .intRandom r1 | .mathInc r1 | .mathDec r1 => [r1]
  | .stringStore r1 _ | .stringPrint r1 | .stringSystem r1 | .stringToint r1 => [r1]
  | .cmpImmediate r1 _ | .cmpString r1 _ | .isString r1 | .isNumber r1 => [r1]
  | .stackPush r1 | .stackPop r1 => [r1]
  | .cmpReg r1 r2 | .storeReg r1 r2 | .peek r1 r2 | .poke r1 r2 => [r1, r2]
  | .mathAdd r1 r2 r3 | .mathSub r1 r2 r3 | .mathMul r1 r2 r3 | .mathDiv r1 r2 r3 => [r1, r2, r3]
  | .mathXor r1 r2 r3 | .mathAnd r1 r2 r3 | .mathOr r1 r2 r3 => [r1, r2, r3]
  | .mathLft r1 r2 r3 | .mathRgt r1 r2 r3 => [r1, r2, r3]
  | .stringConcat r1 r2 r3 | .memcpy r1 r2 r3 => [r1, r2, r3]

/-- The register operand bytes an instruction reads as a Number, by `num` (10 R14). -/
def numberReads : Instr → List Byte
  | .intPrint r1 | .intTostring r1 | .mathInc r1 | .mathDec r1 | .cmpImmediate r1 _ | .stackPush r1 => [r1]
  | .mathAdd _ r2 r3 | .mathSub _ r2 r3 | .mathMul _ r2 r3 | .mathDiv _ r2 r3 => [r2, r3]
  | .mathXor _ r2 r3 | .mathAnd _ r2 r3 | .mathOr _ r2 r3 | .mathLft _ r2 r3 | .mathRgt _ r2 r3 => [r2, r3]
  | .peek _ r2 => [r2]
  | .poke r1 r2 => [r1, r2]
  | .memcpy r1 r2 r3 => [r2, r1, r3]
  | .exit | .nop | .jumpTo _ | .jumpZ _ | .jumpNz _ | .stackRet | .stackCall _ | .unknown _ => []
  | .intStore _ _ | .intRandom _ | .stringStore _ _ | .stringPrint _ | .stringConcat _ _ _ => []
  | .stringSystem _ | .stringToint _ | .cmpReg _ _ | .cmpString _ _ | .isString _ | .isNumber _ => []
  | .storeReg _ _ | .stackPop _ => []

/-- The register operand bytes an instruction reads as a String, by `str` (10 R14). -/
def stringReads : Instr → List Byte
  | .stringPrint r1 | .stringSystem r1 | .stringToint r1 | .cmpString r1 _ => [r1]
  | .stringConcat _ r2 r3 => [r2, r3]
  | .exit | .nop | .jumpTo _ | .jumpZ _ | .jumpNz _ | .stackRet | .stackCall _ | .unknown _ => []
  | .intStore _ _ | .intPrint _ | .intTostring _ | .intRandom _ | .mathInc _ | .mathDec _ => []
  | .mathAdd _ _ _ | .mathSub _ _ _ | .mathMul _ _ _ | .mathDiv _ _ _ => []
  | .mathXor _ _ _ | .mathAnd _ _ _ | .mathOr _ _ _ | .mathLft _ _ _ | .mathRgt _ _ _ => []
  | .stringStore _ _ | .cmpReg _ _ | .cmpImmediate _ _ | .isString _ | .isNumber _ | .storeReg _ _ => []
  | .peek _ _ | .poke _ _ | .memcpy _ _ _ | .stackPush _ | .stackPop _ => []

/-- The condition of each cause, and the `info` it records, for instruction `i` begun in `s` (60 R200): a register byte
of `i` that is 16 or more; the index of a register that `i` reads as the variant it does not hold; the index of the
divisor register of a MATH_DIV, holding 0; `sp + 1` at a full stack; `sp` at an empty one; the address in the address
register of a PEEK or POKE, out of range; a negative address in the destination or source register of a MEMCPY. -/
def infoFits (i : Instr) (s : State) : Cause → Int → Prop
  | .badRegister, info => ∃ b ∈ registerOperands i, BadByte b ∧ info = b.toNat
  | .typeMismatch, info => ∃ r : Reg, info = r.val ∧
      ((regByte r ∈ numberReads i ∧ ∃ t, s.regs[r] = .string t) ∨
       (regByte r ∈ stringReads i ∧ ∃ n, s.regs[r] = .number n))
  | .divZero, info => ∃ (b1 b2 : Byte) (r : Reg),
      i = .mathDiv b1 b2 (regByte r) ∧ s.regs[r] = .number 0 ∧ info = r.val
  | .stackOverflow, info => s.sp.val = 1024 ∧ info = s.sp.val + 1
  | .stackUnderflow, info => s.sp.val = 0 ∧ info = s.sp.val
  | .addressRange, info => ∃ (b : Byte) (r : Reg) (a : Number),
      (i = .peek b (regByte r) ∨ i = .poke b (regByte r)) ∧ s.regs[r] = .number a ∧
      (a.toInt < 0 ∨ 65535 < a.toInt) ∧ info = a.toInt
  | .negativeCopy, info => ∃ (b b3 : Byte) (r : Reg) (a : Number),
      (i = .memcpy (regByte r) b b3 ∨ i = .memcpy b (regByte r) b3) ∧ s.regs[r] = .number a ∧
      a.toInt < 0 ∧ info = a.toInt

/-- Instruction `i`, begun in `s`, may raise `Panic(cause, info)`: the table of 60 R201 gives `i` the cause, and 60 R200
gives the cause this `info`. -/
def MayRaise (i : Instr) (s : State) (cause : Cause) (info : Int) : Prop :=
  cause ∈ causesOf i ∧ infoFits i s cause info

/-- The memory byte `c` is one an instruction stores to: POKE's address, or an index of MEMCPY, read from the
registers the operand bytes name (47 R166, R167). -/
def StoresTo (i : Instr) (s : State) (c : Addr) : Prop :=
  match i with
  | .poke _ r2 => ∃ (ar : Reg) (a : Number), r2 = regByte ar ∧ s.regs[ar] = .number a ∧ a.toInt = c.toNat
  | .memcpy r1 _ r3 => ∃ (dr lr : Reg) (d n : Number), r1 = regByte dr ∧ r3 = regByte lr ∧
      s.regs[dr] = .number d ∧ s.regs[lr] = .number n ∧
      ∃ k : Nat, (k : Int) < n.toInt ∧ (d.toInt + k) % 65535 = c.toNat
  | .exit | .nop | .intStore _ _ | .intPrint _ | .intTostring _ | .intRandom _ => False
  | .jumpTo _ | .jumpZ _ | .jumpNz _ => False
  | .mathAdd _ _ _ | .mathSub _ _ _ | .mathMul _ _ _ | .mathDiv _ _ _ => False
  | .mathXor _ _ _ | .mathAnd _ _ _ | .mathOr _ _ _ | .mathLft _ _ _ | .mathRgt _ _ _ => False
  | .mathInc _ | .mathDec _ => False
  | .stringStore _ _ | .stringPrint _ | .stringConcat _ _ _ | .stringSystem _ | .stringToint _ => False
  | .cmpReg _ _ | .cmpImmediate _ _ | .cmpString _ _ | .isString _ | .isNumber _ => False
  | .storeReg _ _ | .peek _ _ => False
  | .stackPush _ | .stackPop _ | .stackRet | .stackCall _ | .unknown _ => False

/-! ### The invariant of the machine -/

/-- What holds of the machine after reset and after every step: memory in its canonical form; PANICKED exactly
when a fault is latched, which is then the only PANIC record (10 R23, R31); `running` exactly in phases LOADED and
EXECUTING (10 R21, R22); the count below a positive cap while the loop goes on, and never above it (40 R93). -/
structure State.Inv (s : State) : Prop where
  memWf : s.mem.wf = true
  faultLatched : s.phase = .panicked ↔ s.fault.isSome = true
  panicRecord : s.panicCh = s.fault.toList
  runningPhase : s.running = true ↔ s.phase = .loaded ∨ s.phase = .executing
  belowCap : s.phase = .executing → 0 < s.cap → (s.icount : Int) < s.cap
  notAboveCap : 0 < s.cap → (s.icount : Int) ≤ s.cap

/-- Two states alike in all but the stack slots above `sp` (10 R20: those slots cannot be read). -/
def AlikeBelowSp (s t : State) : Prop :=
  t = { s with stack := t.stack } ∧ ∀ k : Nat, (h : k < s.sp.val) →
    s.stack[k]'(by have := s.sp.isLt; omega) = t.stack[k]'(by have := s.sp.isLt; omega)

/-- `t` is a state in which the loop is not dispatching. -/
def Halted (t : State) : Prop := t.phase = .stopped ∨ t.phase = .panicked

end Sys2Proof.Machine
end

