-- ==== Sys2Proof/Certificates/Slice0/Obligations.lean ====
section
/-! DEFINITION. The statements for the provers, each from numbered rules of spec/. A statement whose rule the spec
marks as its own decision (D<n> of 92_eei_decisions.md) or as derived says so in its docstring. -/

open Sys2Proof Sys2Proof.Machine

/-! ### Encoding -/

/-- 30 R68, R70, R71; 49 R190, R191. The default opcode map, the spec's decision D1 (log 6): each mnemonic's byte,
that no two share one, that every other byte decodes, under any map, to the one-byte fallback, and that 218 bytes
are left to it. -/
def Obligations.DefaultOpcodeMapAndFallback : Prop :=
  [Mnemonic.exit, .intStore, .intPrint, .intTostring, .intRandom].map Config.opc = [0x00, 0x01, 0x02, 0x03, 0x04] ∧
  [Mnemonic.jumpTo, .jumpZ, .jumpNz].map Config.opc = [0x10, 0x11, 0x12] ∧
  [Mnemonic.mathXor, .mathAdd, .mathSub, .mathMul, .mathDiv, .mathInc, .mathDec, .mathAnd, .mathOr, .mathLft,
    .mathRgt].map Config.opc = [0x20, 0x21, 0x22, 0x23, 0x24, 0x25, 0x26, 0x27, 0x28, 0x29, 0x2A] ∧
  [Mnemonic.stringStore, .stringPrint, .stringConcat, .stringSystem, .stringToint].map Config.opc =
    [0x30, 0x31, 0x32, 0x33, 0x34] ∧
  [Mnemonic.cmpReg, .cmpImmediate, .cmpString, .isString, .isNumber].map Config.opc =
    [0x40, 0x41, 0x42, 0x43, 0x44] ∧
  [Mnemonic.nop, .storeReg, .peek, .poke, .memcpy].map Config.opc = [0x50, 0x51, 0x60, 0x61, 0x62] ∧
  [Mnemonic.stackPush, .stackPop, .stackRet, .stackCall].map Config.opc = [0x70, 0x71, 0x72, 0x73] ∧
  Config.opc.Injective ∧
  (∀ (opc : OpcodeMap) (b : Byte), (∀ m, opc m ≠ b) → ∀ rest, decodeWith opc (b :: rest) = .ok (.unknown b, rest)) ∧
  ((List.range 256).filter fun k => unassigned Config.opc (BitVec.ofNat 8 k)).length = 218

/-- 30 R64, R65, R68 (95 vectors). Words written out from the spec's encodings, under the default map (D1), decode to
the instructions they stand for, one or more of each family. -/
def Obligations.SampleWordsDecode : Prop :=
  decode [0x00] = .ok (.exit, []) ∧
  decode [0x01, 0x0F, 0xFF, 0xFF] = .ok (.intStore 15 65535, []) ∧
  decode [0x10, 0x34, 0x12] = .ok (.jumpTo 0x1234, []) ∧
  decode [0x21, 0x02, 0x00, 0x01] = .ok (.mathAdd 2 0 1, []) ∧
  decode [0x30, 0x01, 0x02, 0x00, 0x48, 0x69, 0x31] = .ok (.stringStore 1 [0x48, 0x69], [0x31]) ∧
  decode [0x42, 0x00, 0x02, 0x00, 0x61, 0x62] = .ok (.cmpString 0 [0x61, 0x62], []) ∧
  decode [0x51, 0x01, 0x00] = .ok (.storeReg 1 0, []) ∧
  decode [0x62, 0x05, 0x01, 0x02] = .ok (.memcpy 5 1 2, []) ∧
  decode [0x73, 0x08, 0x00] = .ok (.stackCall 8, []) ∧
  decode [0xFF, 0x00] = .ok (.unknown 0xFF, [0x00]) ∧
  decodeTableWord 32 0x00050001 = some (.intStore 0 5)

/-- 30 R64, R65, R67, R69. Under every injective opcode map, decoding the encoding of a well-formed instruction,
whatever follows it, gives the instruction and what follows. -/
def Obligations.DecodeInvertsEncode : Prop :=
  ∀ (opc : OpcodeMap), opc.Injective → ∀ (i : Instr), i.wellFormed opc = true →
    ∀ rest, decodeWith opc (encodeWith opc i ++ rest) = .ok (i, rest)

/-- 30 R64, R65, R68. Under every opcode map, an instruction that is decoded is well formed and its encoding is
exactly the bytes it was decoded from: no bit of a word is dropped, and no two words mean the same. -/
def Obligations.EncodeInvertsDecode : Prop :=
  ∀ (opc : OpcodeMap) (bytes : List Byte) (i : Instr) (rest : List Byte),
    decodeWith opc bytes = .ok (i, rest) → i.wellFormed opc = true ∧ encodeWith opc i ++ rest = bytes

/-! ### Fetch, step, loop -/

/-- 30 R60, 20 R51 (DEDUCED from the two, log 14). The bytes a fetch reads from address `a`: the k-th stands at
`(a + k) mod 65536`, and a byte stored before is seen by the fetch. -/
def Obligations.FetchWrapsAndSeesStores : Prop :=
  ∀ (m : Memory) (a c : Addr) (v : Byte) (n k : Nat), m.wf = true → k < n →
    ((m.write c v).readBytes a n)[k]? =
      some (if (a.toNat + k) % 65536 = c.toNat then v else m.read (BitVec.ofNat 16 (a.toNat + k)))

/-- 40 R90, R91, R93; 60 R204 (decisions D8, D19). In phase EXECUTING with `running` 1, when the bytes at `ip` are
the encoding of a well-formed instruction `i`, under any injective opcode map (`step` is the default one's), the step
is `exec i` and then: nothing more after a panic; otherwise `icount` one more, `running` cleared when a positive cap is
reached, and phase STOPPED when `running` is 0. -/
def Obligations.StepRunsDecodedInstruction : Prop :=
  (∀ s, step s = stepWith Config.opc s) ∧
  ∀ (opc : OpcodeMap) (s : State) (i : Instr), opc.Injective → s.phase = .executing → s.running = true →
    i.wellFormed opc = true → s.mem.readBytes s.ip (encodeWith opc i).length = encodeWith opc i →
    ∃ t, exec i s = .next t ∧
      (t.phase = .panicked → stepWith opc s = .next t) ∧
      (t.phase ≠ .panicked → (0 < t.cap ∧ t.cap ≤ t.icount + 1) ∨ t.running = false →
        stepWith opc s = .next { t with icount := t.icount + 1, running := false, phase := .stopped }) ∧
      (t.phase ≠ .panicked → ¬ (0 < t.cap ∧ t.cap ≤ t.icount + 1) → t.running = true →
        stepWith opc s = .next { t with icount := t.icount + 1 })

/-- 40 R91 ("dispatch never fails by itself"), 30 R68, R71. Whatever the state and the opcode map, a step answers a
next state: no fault, no refusal. -/
def Obligations.StepAlwaysAnswersNext : Prop := ∀ (opc : OpcodeMap) (s : State), ∃ t, stepWith opc s = .next t

/-- 40 R93, R94 (decision D19). A run with a positive cap ends: from a state of the invariant in phase EXECUTING,
after at most `cap - icount` steps the machine is STOPPED or PANICKED, and STOPPED with fewer than `cap`
instructions counted only right after an EXIT. -/
def Obligations.CappedRunEnds : Prop :=
  ∀ s : State, s.Inv → s.phase = .executing → 0 < s.cap →
    ∃ (k : Nat) (t : State), 1 ≤ k ∧ (k : Int) ≤ s.cap - s.icount ∧ core.run k s = .next t ∧ Halted t ∧
      (t.phase = .stopped → (t.icount : Int) = s.cap ∨
        ∃ u : State, core.run (k - 1) s = .next u ∧ u.phase = .executing ∧ u.mem.read u.ip = Config.opc .exit)

/-! ### Control -/

/-- 40 R95, R96. EXIT clears `running` and NOP does nothing; both leave `ip` at the next byte, decode from their one
opcode byte, and are counted by the loop; after EXIT the loop is left to STOPPED, registers, Z, `sp`, the stack and
`mem` are as they were and readable through DUMP (of the stack every slot at or below `sp`, those above being unreadable,
10 R20), and a later RUN starts at address 0. -/
def Obligations.ExitEndsRunNopIsInert : Prop :=
  DecodesAs .exit 0x00 [] .exit ∧ DecodesAs .nop 0x50 [] .nop ∧
  (∀ s, Completes .exit s { s with running := false, ip := s.ip + 1 }) ∧
  (∀ s, Completes .nop s { s with ip := s.ip + 1 }) ∧
  (∀ (s : State) (cap : Int), s.phase = .executing → s.running = true → s.mem.read s.ip = Config.opc .exit →
    ∃ t, step s = .next t ∧
      t = { s with running := false, ip := s.ip + 1, icount := s.icount + 1, phase := .stopped } ∧
      (∃ entries, t.accept .dump = (t, .dumped s.regs s.z s.sp.val entries s.mem) ∧
        ∀ (k : Nat) (h : k < 1024), k < s.sp.val → entries[k]? = some s.stack[k]) ∧
      ((t.accept (.run cap)).1).ip = 0) ∧
  (∀ s : State, s.phase = .executing → s.running = true → s.mem.read s.ip = Config.opc .nop → s.cap ≤ 0 →
    step s = .next { s with ip := s.ip + 1, icount := s.icount + 1 })

/-! ### Immediate and numeric instructions -/

/-- 41 R100. INT_STORE writes the zero-extended immediate, low byte first in the encoding, and leaves `ip` four bytes
on; a register byte of 16 or more raises BAD_REGISTER. -/
def Obligations.IntStoreWritesImmediate : Prop :=
  ∀ (s : State) (b lo hi : Byte), ∃ imm : Half, imm.toNat = lo.toNat + 256 * hi.toNat ∧
    DecodesAs .intStore 0x01 [b, lo, hi] (.intStore b imm) ∧
    (BadByte b → Raises (.intStore b imm) s .badRegister b.toNat) ∧
    (∀ d : Reg, b = regByte d → ∃ n : Number, n.toInt = lo.toNat + 256 * hi.toNat ∧
      Completes (.intStore b imm) s { s with regs := s.regs.set d (.number n), ip := s.ip + 4 })

/-- 41 R101. INT_PRINT appends `Int(n)` to OUT, rendered as `dec(n)`; a String is a TYPE_MISMATCH and nothing is
emitted. -/
def Obligations.IntPrintEmitsNumber : Prop :=
  ∀ (s : State) (b : Byte),
    DecodesAs .intPrint 0x02 [b] (.intPrint b) ∧
    (BadByte b → Raises (.intPrint b) s .badRegister b.toNat) ∧
    (∀ (r : Reg) (t : Str), b = regByte r → s.regs[r] = .string t → Raises (.intPrint b) s .typeMismatch r.val) ∧
    (∀ (r : Reg) (n : Number), b = regByte r → s.regs[r] = .number n →
      Completes (.intPrint b) s { s with outCh := s.outCh ++ [.int n], ip := s.ip + 2 } ∧
      renderOut [.int n] = dec n)

/-- 41 R102. INT_TOSTRING replaces a Number by its decimal text, `"0"` for 0 and eleven bytes for -2147483648; a
String is a TYPE_MISMATCH. -/
def Obligations.IntToStringConverts : Prop :=
  (∀ (s : State) (b : Byte),
    DecodesAs .intTostring 0x03 [b] (.intTostring b) ∧
    (BadByte b → Raises (.intTostring b) s .badRegister b.toNat) ∧
    (∀ (r : Reg) (t : Str), b = regByte r → s.regs[r] = .string t → Raises (.intTostring b) s .typeMismatch r.val) ∧
    (∀ (r : Reg) (n : Number), b = regByte r → s.regs[r] = .number n →
      Completes (.intTostring b) s { s with regs := s.regs.set r (.string (dec n)), ip := s.ip + 2 })) ∧
  dec 0 = [0x30] ∧
  dec (BitVec.ofInt 32 (-2147483648)) = [0x2D, 0x32, 0x31, 0x34, 0x37, 0x34, 0x38, 0x33, 0x36, 0x34, 0x38]

/-- 41 R103, 10 R32 (decision D16: the value is an input, free). INT_RANDOM writes the value the random input
delivers, a number 0 to 65535, whatever the register held; a bad register byte draws none. The statement holds for
every value of the free constant `Config.freeRandom` (log 2). -/
def Obligations.IntRandomWritesDrawnValue : Prop :=
  ∀ (s : State) (b : Byte),
    DecodesAs .intRandom 0x04 [b] (.intRandom b) ∧
    (BadByte b → Raises (.intRandom b) s .badRegister b.toNat) ∧
    (∀ r : Reg, b = regByte r → ∃ n : Number, n.toInt = (Config.freeRandom s.draws).toNat ∧
      0 ≤ n.toInt ∧ n.toInt ≤ 65535 ∧
      Completes (.intRandom b) s
        { s with regs := s.regs.set r (.number n), draws := s.draws + 1, ip := s.ip + 2 })

/-- 41 R105 (decision D14). The decimal text of a Number: a minus sign exactly for the negative ones, then the
digits of the magnitude, at least one, with no leading zero unless the text is the one byte 0x30. -/
def Obligations.DecimalTextIsCanonical : Prop :=
  ∀ n : Number, ∃ ds : Str, ds ≠ [] ∧ AllDigits ds ∧ digitsValue ds = n.toInt.natAbs ∧
    dec n = (if n.toInt < 0 then [0x2D] else []) ++ ds ∧ (ds.head? = some 0x30 → ds = [0x30])

/-- 44 R147 (decision D15). What `parse_dec` reads of any text: white space, at most one sign, digits, and the rest
ignored, the value wrapped to 32 bits; every text splits so; a text with no number gives 0; and it inverts `dec`. -/
def Obligations.ParseDecimalReadsPrefix : Prop :=
  (∀ (ws sgn ds rest : Str), (∀ b ∈ ws, SpaceByte b) → sgn ∈ [[], [0x2D], [0x2B]] → AllDigits ds →
    (∀ b, rest.head? = some b → ¬ (0x30 ≤ b.toNat ∧ b.toNat ≤ 0x39)) →
    (sgn = [] → ds = [] → ∀ b, rest.head? = some b → ¬ SpaceByte b ∧ b ≠ 0x2D ∧ b ≠ 0x2B) →
    WrapsTo (if sgn = [0x2D] then -(digitsValue ds : Int) else digitsValue ds) (parseDec (ws ++ sgn ++ ds ++ rest))) ∧
  (∀ t : Str, ∃ ws sgn ds rest : Str, t = ws ++ sgn ++ ds ++ rest ∧ (∀ b ∈ ws, SpaceByte b) ∧
    sgn ∈ [[], [0x2D], [0x2B]] ∧ AllDigits ds ∧
    (∀ b, rest.head? = some b → ¬ (0x30 ≤ b.toNat ∧ b.toNat ≤ 0x39)) ∧
    (sgn = [] → ds = [] → ∀ b, rest.head? = some b → ¬ SpaceByte b ∧ b ≠ 0x2D ∧ b ≠ 0x2B)) ∧
  parseDec [] = 0 ∧ parseDec [0x61, 0x62, 0x63] = 0 ∧
  (∀ n : Number, parseDec (dec n) = n)

/-! ### Jumps -/

/-- 42 R110, R111, R112. JUMP_TO goes to its absolute 16-bit target; JUMP_Z goes there iff Z = 1 and JUMP_NZ iff
Z = 0, and a jump not taken leaves `ip` three bytes on. No flag is written and none of them panics. -/
def Obligations.JumpsSetInstructionPointer : Prop :=
  ∀ (s : State) (lo hi : Byte), ∃ target : Half, target.toNat = lo.toNat + 256 * hi.toNat ∧
    DecodesAs .jumpTo 0x10 [lo, hi] (.jumpTo target) ∧ DecodesAs .jumpZ 0x11 [lo, hi] (.jumpZ target) ∧
    DecodesAs .jumpNz 0x12 [lo, hi] (.jumpNz target) ∧
    Completes (.jumpTo target) s { s with ip := target } ∧
    (s.z = true → Completes (.jumpZ target) s { s with ip := target }) ∧
    (s.z = false → Completes (.jumpZ target) s { s with ip := s.ip + 3 }) ∧
    (s.z = false → Completes (.jumpNz target) s { s with ip := target }) ∧
    (s.z = true → Completes (.jumpNz target) s { s with ip := s.ip + 3 })

/-! ### Arithmetic -/

/-- 43 R120, R121, R125, R126, R127 (decisions D2 wrap, D5 left operand, D10 order). ADD, SUB and MUL store the
exact result reduced to 32-bit two's complement and set Z iff the stored result is 0. -/
def Obligations.AddSubMulWrap : Prop :=
  ThreeRegisterRule .mathAdd 0x21 .mathAdd (fun _ _ => False) (fun a b r => WrapsTo (a.toInt + b.toInt) r) ∧
  ThreeRegisterRule .mathSub 0x22 .mathSub (fun _ _ => False) (fun a b r => WrapsTo (a.toInt - b.toInt) r) ∧
  ThreeRegisterRule .mathMul 0x23 .mathMul (fun _ _ => False) (fun a b r => WrapsTo (a.toInt * b.toInt) r)

/-- 43 R120, R122, R128 (decisions D3, D5, D10). DIV stores the quotient rounded toward zero, wrapped (so
-2147483648 / -1 is -2147483648); a zero divisor raises DIV_ZERO with the divisor's register, after the typed reads:
a panic, which changes nothing but what latches it. -/
def Obligations.DivTruncatesOrPanics : Prop :=
  ThreeRegisterRule .mathDiv 0x24 .mathDiv (fun _ b => b = 0)
    (fun a b r => ∃ q : Int, WrapsTo q r ∧ q.natAbs = a.toInt.natAbs / b.toInt.natAbs ∧
      (q ≠ 0 → (0 ≤ q ↔ (0 ≤ a.toInt ↔ 0 ≤ b.toInt)))) ∧
  ∀ (s : State) (d s1 s2 : Reg) (a : Number), s.regs[s1] = .number a → s.regs[s2] = .number 0 →
    Raises (.mathDiv (regByte d) (regByte s1) (regByte s2)) s .divZero s2.val

/-- 43 R120, R129, R130, R131 (decisions D2, D10). XOR, AND and OR act bit by bit on the 32-bit patterns. -/
def Obligations.BitwiseActsOnPatterns : Prop :=
  ThreeRegisterRule .mathXor 0x20 .mathXor (fun _ _ => False)
    (fun a b r => ∀ k, r.getLsbD k = (a.getLsbD k ^^ b.getLsbD k)) ∧
  ThreeRegisterRule .mathAnd 0x27 .mathAnd (fun _ _ => False)
    (fun a b r => ∀ k, r.getLsbD k = (a.getLsbD k && b.getLsbD k)) ∧
  ThreeRegisterRule .mathOr 0x28 .mathOr (fun _ _ => False)
    (fun a b r => ∀ k, r.getLsbD k = (a.getLsbD k || b.getLsbD k))

/-- 43 R120, R123, R124, R132, R133 (decisions D4, D5, D10). The shift count is the low five bits of the second
source; LFT multiplies by its power of two and wraps; RGT is the floor of the quotient, an arithmetic shift. No
count panics. -/
def Obligations.ShiftsUseLowFiveBits : Prop :=
  ThreeRegisterRule .mathLft 0x29 .mathLft (fun _ _ => False)
    (fun a b r => WrapsTo (a.toInt * 2 ^ (b.toNat % 32)) r) ∧
  ThreeRegisterRule .mathRgt 0x2A .mathRgt (fun _ _ => False)
    (fun a b r => r.toInt * 2 ^ (b.toNat % 32) ≤ a.toInt ∧ a.toInt < (r.toInt + 1) * 2 ^ (b.toNat % 32))

/-- 43 R134, R135 (decision D2). INC and DEC change their register by one, wrapping, and set Z iff the result
is 0, that is iff the register held -1 (INC) or 1 (DEC). -/
def Obligations.IncDecWrap : Prop :=
  OneRegisterRule .mathInc 0x25 .mathInc (fun n r => WrapsTo (n.toInt + 1) r ∧ (r.toInt = 0 ↔ n.toInt = -1)) ∧
  OneRegisterRule .mathDec 0x26 .mathDec (fun n r => WrapsTo (n.toInt - 1) r ∧ (r.toInt = 0 ↔ n.toInt = 1))

/-! ### Strings -/

/-- 44 R140. STRING_STORE writes the literal, whose two length bytes come low first, whatever the register held,
and is 4 + n bytes long; the register byte is checked first. -/
def Obligations.StringStoreInstallsLiteral : Prop :=
  ∀ (s : State) (b lo hi : Byte) (lit : Str), lit.length = lo.toNat + 256 * hi.toNat →
    DecodesAs .stringStore 0x30 ([b, lo, hi] ++ lit) (.stringStore b lit) ∧
    (BadByte b → Raises (.stringStore b lit) s .badRegister b.toNat) ∧
    (∀ d : Reg, b = regByte d →
      Completes (.stringStore b lit) s
        { s with regs := s.regs.set d (.string lit), ip := s.ip + BitVec.ofNat 16 (4 + lit.length) })

/-- 44 R141 (decision D14: nothing is added to the text). STRING_PRINT appends `Str(t)` to OUT, rendered as the bytes
of `t`; a Number is a TYPE_MISMATCH and nothing is emitted. -/
def Obligations.StringPrintEmitsString : Prop :=
  ∀ (s : State) (b : Byte),
    DecodesAs .stringPrint 0x31 [b] (.stringPrint b) ∧
    (BadByte b → Raises (.stringPrint b) s .badRegister b.toNat) ∧
    (∀ (r : Reg) (n : Number), b = regByte r → s.regs[r] = .number n → Raises (.stringPrint b) s .typeMismatch r.val) ∧
    (∀ (r : Reg) (t : Str), b = regByte r → s.regs[r] = .string t →
      Completes (.stringPrint b) s { s with outCh := s.outCh ++ [.str t], ip := s.ip + 2 } ∧
      renderOut [.str t] = t)

/-- 44 R143 (decisions D6, D13; order of checks D10). STRING_CONCAT writes the first source's bytes and then the
second's; the sources are read before the destination is written; a Number in either source is a TYPE_MISMATCH. -/
def Obligations.ConcatJoinsSources : Prop :=
  (∀ b1 b2 b3, DecodesAs .stringConcat 0x32 [b1, b2, b3] (.stringConcat b1 b2 b3)) ∧
  (∀ s b1 b2 b3, BadByte b1 → Raises (.stringConcat b1 b2 b3) s .badRegister b1.toNat) ∧
  (∀ s (d : Reg) b2 b3, BadByte b2 → Raises (.stringConcat (regByte d) b2 b3) s .badRegister b2.toNat) ∧
  (∀ s (d s1 : Reg) b3, BadByte b3 →
    Raises (.stringConcat (regByte d) (regByte s1) b3) s .badRegister b3.toNat) ∧
  (∀ (s : State) (d s1 s2 : Reg) (n : Number), s.regs[s1] = .number n →
    Raises (.stringConcat (regByte d) (regByte s1) (regByte s2)) s .typeMismatch s1.val) ∧
  (∀ (s : State) (d s1 s2 : Reg) (a : Str) (n : Number), s.regs[s1] = .string a → s.regs[s2] = .number n →
    Raises (.stringConcat (regByte d) (regByte s1) (regByte s2)) s .typeMismatch s2.val) ∧
  (∀ (s : State) (d s1 s2 : Reg) (a b : Str), s.regs[s1] = .string a → s.regs[s2] = .string b →
    Completes (.stringConcat (regByte d) (regByte s1) (regByte s2)) s
      { s with regs := s.regs.set d (.string (a ++ b)), ip := s.ip + 4 })

/-- 44 R145 (decision D23). STRING_SYSTEM hands the command to HOST when `fuzz_safe` is 0 and to DIAG, as skipped,
when it is 1; nothing else changes; a Number is a TYPE_MISMATCH. -/
def Obligations.StringSystemReports : Prop :=
  ∀ (s : State) (b : Byte),
    DecodesAs .stringSystem 0x33 [b] (.stringSystem b) ∧
    (BadByte b → Raises (.stringSystem b) s .badRegister b.toNat) ∧
    (∀ (r : Reg) (n : Number), b = regByte r → s.regs[r] = .number n → Raises (.stringSystem b) s .typeMismatch r.val) ∧
    (∀ (r : Reg) (t : Str), b = regByte r → s.regs[r] = .string t → s.fuzzSafe = false →
      Completes (.stringSystem b) s { s with hostCh := s.hostCh ++ [.system t], ip := s.ip + 2 }) ∧
    (∀ (r : Reg) (t : Str), b = regByte r → s.regs[r] = .string t → s.fuzzSafe = true →
      Completes (.stringSystem b) s { s with diagCh := s.diagCh ++ [.systemSkipped t], ip := s.ip + 2 })

/-- 44 R146. STRING_TOINT replaces a String by `parse_dec` of it, leaving Z as it was; non-numeric text gives 0; a
Number is a TYPE_MISMATCH. (What `parse_dec` is: ParseDecimalReadsPrefix.) -/
def Obligations.StringToIntConverts : Prop :=
  ∀ (s : State) (b : Byte),
    DecodesAs .stringToint 0x34 [b] (.stringToint b) ∧
    (BadByte b → Raises (.stringToint b) s .badRegister b.toNat) ∧
    (∀ (r : Reg) (n : Number), b = regByte r → s.regs[r] = .number n → Raises (.stringToint b) s .typeMismatch r.val) ∧
    (∀ (r : Reg) (t : Str), b = regByte r → s.regs[r] = .string t →
      Completes (.stringToint b) s { s with regs := s.regs.set r (.number (parseDec t)), ip := s.ip + 2 } ∧
      ((∀ c, t.head? = some c → ¬ SpaceByte c ∧ c ≠ 0x2D ∧ c ≠ 0x2B ∧ ¬ (0x30 ≤ c.toNat ∧ c.toNat ≤ 0x39)) →
        parseDec t = 0))

/-! ### Comparisons -/

/-- 45 R150. CMP_REG sets Z iff the two registers hold the same variant and equal values, and clears it otherwise;
it never raises TYPE_MISMATCH. -/
def Obligations.CmpRegComparesWords : Prop :=
  (∀ b1 b2, DecodesAs .cmpReg 0x40 [b1, b2] (.cmpReg b1 b2)) ∧
  (∀ s b1 b2, BadByte b1 → Raises (.cmpReg b1 b2) s .badRegister b1.toNat) ∧
  (∀ s (a : Reg) b2, BadByte b2 → Raises (.cmpReg (regByte a) b2) s .badRegister b2.toNat) ∧
  (∀ (s : State) (a b : Reg),
    Completes (.cmpReg (regByte a) (regByte b)) s { s with z := decide (s.regs[a] = s.regs[b]), ip := s.ip + 3 })

/-- 45 R151, R152 (decisions D10 order, D13 strings). CMP_IMMEDIATE sets Z iff the Number equals the zero-extended
immediate, CMP_STRING iff the String equals the literal byte for byte, and each clears it otherwise; the wrong variant
is a TYPE_MISMATCH. -/
def Obligations.CmpImmediateAndStringCompareOperand : Prop :=
  (∀ (s : State) (b lo hi : Byte), ∃ imm : Half, imm.toNat = lo.toNat + 256 * hi.toNat ∧
    DecodesAs .cmpImmediate 0x41 [b, lo, hi] (.cmpImmediate b imm) ∧
    (BadByte b → Raises (.cmpImmediate b imm) s .badRegister b.toNat) ∧
    (∀ (r : Reg) (t : Str), b = regByte r → s.regs[r] = .string t →
      Raises (.cmpImmediate b imm) s .typeMismatch r.val) ∧
    (∀ (r : Reg) (n : Number), b = regByte r → s.regs[r] = .number n →
      Completes (.cmpImmediate b imm) s
        { s with z := decide (n.toInt = lo.toNat + 256 * hi.toNat), ip := s.ip + 4 })) ∧
  (∀ (s : State) (b lo hi : Byte) (lit : Str), lit.length = lo.toNat + 256 * hi.toNat →
    DecodesAs .cmpString 0x42 ([b, lo, hi] ++ lit) (.cmpString b lit) ∧
    (BadByte b → Raises (.cmpString b lit) s .badRegister b.toNat) ∧
    (∀ (r : Reg) (n : Number), b = regByte r → s.regs[r] = .number n →
      Raises (.cmpString b lit) s .typeMismatch r.val) ∧
    (∀ (r : Reg) (t : Str), b = regByte r → s.regs[r] = .string t →
      Completes (.cmpString b lit) s
        { s with z := decide (t = lit), ip := s.ip + BitVec.ofNat 16 (4 + lit.length) }))

/-- 45 R153, R154. IS_STRING sets Z iff the register holds a String and IS_NUMBER iff it holds a Number, clearing it
otherwise, so the two always give opposite values. -/
def Obligations.VariantTestsSetZ : Prop :=
  ∀ (s : State) (b : Byte),
    DecodesAs .isString 0x43 [b] (.isString b) ∧ DecodesAs .isNumber 0x44 [b] (.isNumber b) ∧
    (BadByte b → Raises (.isString b) s .badRegister b.toNat ∧ Raises (.isNumber b) s .badRegister b.toNat) ∧
    (∀ (r : Reg) (t : Str), b = regByte r → s.regs[r] = .string t →
      Completes (.isString b) s { s with z := true, ip := s.ip + 2 } ∧
      Completes (.isNumber b) s { s with z := false, ip := s.ip + 2 }) ∧
    (∀ (r : Reg) (n : Number), b = regByte r → s.regs[r] = .number n →
      Completes (.isString b) s { s with z := false, ip := s.ip + 2 } ∧
      Completes (.isNumber b) s { s with z := true, ip := s.ip + 2 })

/-! ### Register transfer -/

/-- 46 R160 (decision D6: destination first). STORE_REG copies tag and value of either variant; with destination and
source the same nothing but `ip` changes. -/
def Obligations.StoreRegCopiesWord : Prop :=
  (∀ b1 b2, DecodesAs .storeReg 0x51 [b1, b2] (.storeReg b1 b2)) ∧
  (∀ s b1 b2, BadByte b1 → Raises (.storeReg b1 b2) s .badRegister b1.toNat) ∧
  (∀ s (d : Reg) b2, BadByte b2 → Raises (.storeReg (regByte d) b2) s .badRegister b2.toNat) ∧
  (∀ (s : State) (d r : Reg),
    Completes (.storeReg (regByte d) (regByte r)) s { s with regs := s.regs.set d s.regs[r], ip := s.ip + 3 }) ∧
  (∀ (s : State) (r : Reg), Completes (.storeReg (regByte r) (regByte r)) s { s with ip := s.ip + 3 })

/-! ### Memory -/

/-- 20 R41. A write of one byte is read back by a read of that byte, changes no other byte, and keeps the canonical
form in which the model holds memory (the model's own, log 1). -/
def Obligations.MemoryWriteThenRead : Prop :=
  ∀ (m : Memory) (a : Addr) (v : Byte),
    (m.wf = true → (m.write a v).read a = v ∧ (m.write a v).wf = true) ∧
    (∀ c, c ≠ a → (m.write a v).read c = m.read c)

/-- 47 R165 (decisions D6, D30, D10). PEEK loads the zero-extended byte at the Number in the address register; an
address outside 0 to 65535 raises ADDRESS_RANGE, with no wrap. -/
def Obligations.PeekLoadsByte : Prop :=
  (∀ b1 b2, DecodesAs .peek 0x60 [b1, b2] (.peek b1 b2)) ∧
  (∀ s b1 b2, BadByte b1 → Raises (.peek b1 b2) s .badRegister b1.toNat) ∧
  (∀ s (d : Reg) b2, BadByte b2 → Raises (.peek (regByte d) b2) s .badRegister b2.toNat) ∧
  (∀ (s : State) (d ar : Reg) (t : Str), s.regs[ar] = .string t →
    Raises (.peek (regByte d) (regByte ar)) s .typeMismatch ar.val) ∧
  (∀ (s : State) (d ar : Reg) (a : Number), s.regs[ar] = .number a → (a.toInt < 0 ∨ 65535 < a.toInt) →
    Raises (.peek (regByte d) (regByte ar)) s .addressRange a.toInt) ∧
  (∀ (s : State) (d ar : Reg) (a : Number) (addr : Addr), s.regs[ar] = .number a → a.toInt = addr.toNat →
    ∃ n : Number, n.toInt = (s.mem.read addr).toNat ∧
      Completes (.peek (regByte d) (regByte ar)) s
        { s with regs := s.regs.set d (.number n), ip := s.ip + 3 })

/-- 47 R166 (decisions D6, D30, D10). POKE stores the value modulo 256 at the Number in the address register and
changes no register; the value register is read before the address register, both before the address test. -/
def Obligations.PokeStoresLowByte : Prop :=
  (∀ b1 b2, DecodesAs .poke 0x61 [b1, b2] (.poke b1 b2)) ∧
  (∀ s b1 b2, BadByte b1 → Raises (.poke b1 b2) s .badRegister b1.toNat) ∧
  (∀ s (vr : Reg) b2, BadByte b2 → Raises (.poke (regByte vr) b2) s .badRegister b2.toNat) ∧
  (∀ (s : State) (vr ar : Reg) (t : Str), s.regs[vr] = .string t →
    Raises (.poke (regByte vr) (regByte ar)) s .typeMismatch vr.val) ∧
  (∀ (s : State) (vr ar : Reg) (v : Number) (t : Str), s.regs[vr] = .number v → s.regs[ar] = .string t →
    Raises (.poke (regByte vr) (regByte ar)) s .typeMismatch ar.val) ∧
  (∀ (s : State) (vr ar : Reg) (v a : Number), s.regs[vr] = .number v → s.regs[ar] = .number a →
    (a.toInt < 0 ∨ 65535 < a.toInt) → Raises (.poke (regByte vr) (regByte ar)) s .addressRange a.toInt) ∧
  (∀ (s : State) (vr ar : Reg) (v a : Number) (addr : Addr), s.regs[vr] = .number v → s.regs[ar] = .number a →
    a.toInt = addr.toNat → ∃ c : Byte, (c.toNat : Int) = v.toInt % 256 ∧
      Completes (.poke (regByte vr) (regByte ar)) s { s with mem := s.mem.write addr c, ip := s.ip + 3 })

/-- 47 R167 (decisions D6, D20, D10). MEMCPY's checks in order (register bytes; typed reads source, destination,
length; negative source, negative destination, whatever the length), and its copy: for i = 0, 1, ..., n - 1 in this
order the byte at `(s + i) mod 65535` is stored at `(d + i) mod 65535`, each read just before it is written; nothing
for a length of 0 or less. -/
def Obligations.MemcpyCopiesAscending : Prop :=
  (∀ b1 b2 b3, DecodesAs .memcpy 0x62 [b1, b2, b3] (.memcpy b1 b2 b3)) ∧
  (∀ s b1 b2 b3, BadByte b1 → Raises (.memcpy b1 b2 b3) s .badRegister b1.toNat) ∧
  (∀ s (dr : Reg) b2 b3, BadByte b2 → Raises (.memcpy (regByte dr) b2 b3) s .badRegister b2.toNat) ∧
  (∀ s (dr sr : Reg) b3, BadByte b3 → Raises (.memcpy (regByte dr) (regByte sr) b3) s .badRegister b3.toNat) ∧
  (∀ (s : State) (dr sr lr : Reg),
    let i := Instr.memcpy (regByte dr) (regByte sr) (regByte lr)
    (∀ t, s.regs[sr] = .string t → Raises i s .typeMismatch sr.val) ∧
    (∀ sv t, s.regs[sr] = .number sv → s.regs[dr] = .string t → Raises i s .typeMismatch dr.val) ∧
    (∀ sv dv t, s.regs[sr] = .number sv → s.regs[dr] = .number dv → s.regs[lr] = .string t →
      Raises i s .typeMismatch lr.val) ∧
    (∀ sv dv n, s.regs[sr] = .number sv → s.regs[dr] = .number dv → s.regs[lr] = .number n →
      (sv.toInt < 0 → Raises i s .negativeCopy sv.toInt) ∧
      (0 ≤ sv.toInt → dv.toInt < 0 → Raises i s .negativeCopy dv.toInt) ∧
      (0 ≤ sv.toInt → 0 ≤ dv.toInt →
        Completes i s
          { s with
            mem := (List.range n.toInt.toNat).foldl (fun m (k : Nat) =>
              m.write (BitVec.ofInt 16 ((dv.toInt + k) % 65535))
                (m.read (BitVec.ofInt 16 ((sv.toInt + k) % 65535)))) s.mem
            ip := s.ip + 4 })))

/-- 47 R167 (decision D20). The loop of MEMCPY on its own: when no destination index is a source index and the length
is at most the ring of 65535 bytes, every destination byte becomes the old source byte and every other byte stays; with
the destination one above the source and no wrap, the first byte is repeated over the whole destination. -/
def Obligations.MemcpyDisjointCopiesOverlapRepeats : Prop :=
  ∀ (m : Memory) (s d n : Nat), m.wf = true →
    (n ≤ 65535 → (∀ i j, i < n → j < n → (s + i) % 65535 ≠ (d + j) % 65535) →
      (∀ i, i < n → (Memory.copy 65535 n s d m).read (BitVec.ofNat 16 ((d + i) % 65535)) =
        m.read (BitVec.ofNat 16 ((s + i) % 65535))) ∧
      (∀ c : Addr, (∀ i, i < n → (d + i) % 65535 ≠ c.toNat) → (Memory.copy 65535 n s d m).read c = m.read c)) ∧
    (d = s + 1 → s + n < 65535 → ∀ i, i < n →
      (Memory.copy 65535 n s d m).read (BitVec.ofNat 16 (d + i)) = m.read (BitVec.ofNat 16 s))

/-- 70 R246. MEMCPY cannot reach byte 65535: it leaves that byte, two states that differ in that byte alone are copied
alike in every other byte, and an address register holding 65535 does what one holding 0 does, as source and as
destination; PEEK and POKE reach byte 65535. -/
def Obligations.MemcpyCannotReachTopByte : Prop :=
  (∀ (s t : State) (b1 b2 b3 : Byte), exec (.memcpy b1 b2 b3) s = .next t → t.mem.read 65535 = s.mem.read 65535) ∧
  (∀ (s s' t t' : State) (b1 b2 b3 : Byte), s.mem.wf = true → s'.mem.wf = true → s' = { s with mem := s'.mem } →
    (∀ c : Addr, c ≠ 65535 → s.mem.read c = s'.mem.read c) → exec (.memcpy b1 b2 b3) s = .next t →
    exec (.memcpy b1 b2 b3) s' = .next t' → ∀ c : Addr, c ≠ 65535 → t.mem.read c = t'.mem.read c) ∧
  (∀ (s : State) (r lr top zero : Reg) (a z : Number), s.regs[top] = .number a → a.toInt = 65535 →
    s.regs[zero] = .number z → z.toInt = 0 →
    exec (.memcpy (regByte r) (regByte top) (regByte lr)) s = exec (.memcpy (regByte r) (regByte zero) (regByte lr)) s ∧
    exec (.memcpy (regByte top) (regByte r) (regByte lr)) s =
      exec (.memcpy (regByte zero) (regByte r) (regByte lr)) s) ∧
  (∀ (s : State) (d ar : Reg) (a : Number), s.regs[ar] = .number a → a.toInt = 65535 →
    ∃ n : Number, n.toInt = (s.mem.read 65535).toNat ∧
      Completes (.peek (regByte d) (regByte ar)) s
        { s with regs := s.regs.set d (.number n), ip := s.ip + 3 }) ∧
  (∀ (s : State) (vr ar : Reg) (v a : Number), s.mem.wf = true → s.regs[vr] = .number v → s.regs[ar] = .number a →
    a.toInt = 65535 → ∃ t, Completes (.poke (regByte vr) (regByte ar)) s t ∧
      ((t.mem.read 65535).toNat : Int) = v.toInt % 256)

/-- 47 R170 (derived in the spec from R165 and R166). POKE of `v` to an address and then PEEK from it, in any state
in between whose memory the POKE left, loads `v mod 256`, negative `v` included. -/
def Obligations.PokePeekRoundTrip : Prop :=
  ∀ (s t : State) (vr ar d ar' : Reg) (v a a' : Number), s.mem.wf = true →
    s.regs[vr] = .number v → s.regs[ar] = .number a → 0 ≤ a.toInt → a.toInt ≤ 65535 →
    (∃ u, exec (.poke (regByte vr) (regByte ar)) s = .next u ∧ t.mem = u.mem) →
    t.regs[ar'] = .number a' → a'.toInt = a.toInt →
    ∃ (w : State) (n : Number), exec (.peek (regByte d) (regByte ar')) t = .next w ∧ w.regs[d] = .number n ∧
      n.toInt = v.toInt % 256

/-! ### Stack -/

/-- 48 R175 (decisions D7 threshold, D8). STACK_PUSH raises `sp` and stores the whole Number in the new slot, which
stands at index `sp` of the 1024; with `sp` = 1024 it raises STACK_OVERFLOW with 1025, after the typed read. -/
def Obligations.PushStoresNumber : Prop :=
  ∀ (s : State) (b : Byte),
    DecodesAs .stackPush 0x70 [b] (.stackPush b) ∧
    (BadByte b → Raises (.stackPush b) s .badRegister b.toNat) ∧
    (∀ (r : Reg) (t : Str), b = regByte r → s.regs[r] = .string t → Raises (.stackPush b) s .typeMismatch r.val) ∧
    (∀ (r : Reg) (v : Number), b = regByte r → s.regs[r] = .number v → s.sp.val = 1024 →
      Raises (.stackPush b) s .stackOverflow 1025) ∧
    (∀ (r : Reg) (v : Number) (h : s.sp.val < 1024), b = regByte r → s.regs[r] = .number v →
      Completes (.stackPush b) s
        { s with sp := ⟨s.sp.val + 1, Nat.succ_lt_succ h⟩, stack := s.stack.set s.sp.val v, ip := s.ip + 2 })

/-- 48 R176. STACK_POP writes the Number of the top slot, whatever the register held, and lowers `sp`, leaving the
slot as it was; with `sp` = 0 it raises STACK_UNDERFLOW with 0, after the check of its register byte. -/
def Obligations.PopLoadsNumber : Prop :=
  ∀ (s : State) (b : Byte),
    DecodesAs .stackPop 0x71 [b] (.stackPop b) ∧
    (BadByte b → Raises (.stackPop b) s .badRegister b.toNat) ∧
    (∀ d : Reg, b = regByte d → s.sp.val = 0 → Raises (.stackPop b) s .stackUnderflow 0) ∧
    (∀ (d : Reg) (k : Nat) (h : k < 1024), b = regByte d → s.sp.val = k + 1 →
      Completes (.stackPop b) s
        { s with regs := s.regs.set d (.number s.stack[k]), sp := ⟨k, Nat.lt_succ_of_lt h⟩, ip := s.ip + 2 })

/-- 48 R180 (decision D11). STACK_RET pops a Number and goes to it if it is 0 to 65535, and to 0 otherwise; with
`sp` = 0 it raises STACK_UNDERFLOW. -/
def Obligations.ReturnGoesToPoppedAddress : Prop :=
  DecodesAs .stackRet 0x72 [] .stackRet ∧
  (∀ s : State, s.sp.val = 0 → Raises .stackRet s .stackUnderflow 0) ∧
  (∀ (s : State) (k : Nat) (h : k < 1024), s.sp.val = k + 1 →
    (∀ addr : Addr, (s.stack[k]).toInt = addr.toNat →
      Completes .stackRet s { s with sp := ⟨k, Nat.lt_succ_of_lt h⟩, ip := addr }) ∧
    ((s.stack[k]).toInt < 0 ∨ 65535 < (s.stack[k]).toInt →
      Completes .stackRet s { s with sp := ⟨k, Nat.lt_succ_of_lt h⟩, ip := 0 }))

/-- 48 R181 (decisions D7, D12). STACK_CALL pushes the address of its last byte plus one, 1 to 65536, not reduced,
and goes to its target; with `sp` = 1024 it raises STACK_OVERFLOW with 1025. -/
def Obligations.CallPushesReturnAddress : Prop :=
  ∀ (s : State) (lo hi : Byte), ∃ target : Half, target.toNat = lo.toNat + 256 * hi.toNat ∧
    DecodesAs .stackCall 0x73 [lo, hi] (.stackCall target) ∧
    (s.sp.val = 1024 → Raises (.stackCall target) s .stackOverflow 1025) ∧
    (∀ h : s.sp.val < 1024, ∃ ret : Number, ret.toInt = (s.ip.toNat + 2) % 65536 + 1 ∧
      Completes (.stackCall target) s
        { s with sp := ⟨s.sp.val + 1, Nat.succ_lt_succ h⟩, stack := s.stack.set s.sp.val ret, ip := target })

/-- 48 R177, R182 (derived in the spec). A push and then a pop into the same register restores the Number and `sp`;
a call and then, in any state with the `sp` the call left and the slots at or below it as the call left them, whatever
the subroutine left above, a return goes to the byte after the call's three, with `sp` as before the call. -/
def Obligations.PushPopAndCallReturnMatch : Prop :=
  (∀ (s t : State) (r : Reg) (v : Number), s.regs[r] = .number v → s.sp.val < 1024 →
    exec (.stackPush (regByte r)) s = .next t →
    ∃ u, exec (.stackPop (regByte r)) t = .next u ∧ u.regs = s.regs ∧ u.sp = s.sp) ∧
  (∀ (s t u : State) (target : Half), s.sp.val < 1024 → exec (.stackCall target) s = .next t →
    u.sp = t.sp → (∀ (k : Nat) (h : k < 1024), k < u.sp.val → u.stack[k] = t.stack[k]) →
    ∃ w, exec .stackRet u = .next w ∧ w.ip = s.ip + 3 ∧ w.sp = s.sp ∧ w.regs = u.regs ∧ w.z = u.z)

/-! ### The fallback -/

/-- 49 R190 (decisions D17, D27). An unknown opcode adds one DIAG record with the byte and moves on one byte; no
panic; the loop counts it like any instruction. -/
def Obligations.UnknownOpcodeIsReported : Prop :=
  ∀ (s : State) (b : Byte),
    Completes (.unknown b) s { s with diagCh := s.diagCh ++ [.unknownOpcode b], ip := s.ip + 1 } ∧
    (s.phase = .executing → s.running = true → (∀ m, Config.opc m ≠ b) → s.mem.read s.ip = b → s.cap ≤ 0 →
      step s = .next
        { s with diagCh := s.diagCh ++ [.unknownOpcode b], ip := s.ip + 1, icount := s.icount + 1 })

/-! ### Panics -/

/-- 60 R204 (decision D8). Whatever the instruction, if it ends in phase PANICKED from another phase, then the next
state is the old one, `ip` on the opcode byte, with only the fault latched, `running` 0, the phase PANICKED and one
PANIC record more; and the step does not count it. -/
def Obligations.PanicUndoesInstruction : Prop :=
  ∀ (s t : State) (i : Instr), s.phase ≠ .panicked → exec i s = .next t → t.phase = .panicked →
    (∃ p : Panic, t = { s with fault := some p, running := false, phase := .panicked, panicCh := s.panicCh ++ [p] }) ∧
    (∀ opc : OpcodeMap, opc.Injective → s.phase = .executing → s.running = true → i.wellFormed opc = true →
      s.mem.readBytes s.ip (encodeWith opc i).length = encodeWith opc i → stepWith opc s = .next t)

/-- 60 R200, R201 (decision D9; derived in the spec). The panic an instruction raises has one of the causes the table
gives that instruction, the condition of that cause holds, and its `info` is the operand byte, the register, the address
or the stack pointer that the condition is about; and each cause has its code number. (Which of several panics comes
first: the statements of each instruction.) -/
def Obligations.PanicCausesAndInfo : Prop :=
  (∀ (s t : State) (i : Instr), s.phase ≠ .panicked → exec i s = .next t → t.phase = .panicked →
    ∃ p : Panic, t.fault = some p ∧ p.cause ∈ causesOf i ∧ infoFits i s p.cause p.info) ∧
  [Cause.badRegister, .typeMismatch, .divZero, .stackOverflow, .stackUnderflow, .addressRange, .negativeCopy].map
    Cause.code = [1, 2, 3, 4, 5, 6, 7]

/-- 60 R208, 70 R234 (decisions D8, D18). A step in phase PANICKED dispatches nothing: unless the host's next
command is a CREATE or a DESTROY, the phase, the fault and everything else of the instance stay as they are. -/
def Obligations.PanicIsSticky : Prop :=
  ∀ (opc : OpcodeMap) (s t : State), s.phase = .panicked → stepWith opc s = .next t →
    (∀ c rest, s.pending = c :: rest → c = .dump ∨ ∃ cap, c = .run cap) →
    t = { s with pending := t.pending, replies := t.replies }

/-! ### Frames, over all instructions -/

/-- 10 R13, R15, 43 R136, 47 R168, 48 R178 (R15 derived in the spec). Whatever the instruction, a register its
operand table does not name as written keeps its word; and every register keeps it when the instruction panics. -/
def Obligations.OnlyDestinationRegisterChanges : Prop :=
  ∀ (s t : State) (i : Instr) (r : Reg), exec i s = .next t →
    (destination i ≠ some (regByte r) ∨ (s.phase ≠ .panicked ∧ t.phase = .panicked)) → t.regs[r] = s.regs[r]

/-- 10 R18, 70 R250 (decision D29). Only the eleven MATH and the five comparison instructions change Z. -/
def Obligations.OnlyMathAndCompareWriteZ : Prop :=
  ∀ (s t : State) (i : Instr), exec i s = .next t → writesZ i = false → t.z = s.z

/-- 10 R19, R20 (decision D7). Only STACK_PUSH and STACK_CALL raise `sp`, by one, writing the new slot alone; only
STACK_POP and STACK_RET lower it, by one, writing no slot; every other instruction leaves `sp` and all slots. -/
def Obligations.OnlyStackInstructionsMoveSp : Prop :=
  ∀ (s t : State) (i : Instr), exec i s = .next t →
    (t.sp = s.sp ∧ t.stack = s.stack) ∨
    (((∃ b, i = .stackPush b) ∨ ∃ target, i = .stackCall target) ∧ t.sp.val = s.sp.val + 1 ∧
      ∀ (k : Nat) (h : k < 1024), k ≠ s.sp.val → t.stack[k] = s.stack[k]) ∨
    (((∃ b, i = .stackPop b) ∨ i = .stackRet) ∧ t.sp.val + 1 = s.sp.val ∧ t.stack = s.stack)

/-- 20 R42, 47 R165 to R168. Whatever the instruction, every byte of memory reads as before but for the bytes it
stores to: POKE's address, and the indices `(d + k) mod 65535` of MEMCPY; every other instruction stores nowhere. -/
def Obligations.OnlyStoredBytesChange : Prop :=
  ∀ (s t : State) (i : Instr) (c : Addr), exec i s = .next t → ¬ StoresTo i s c → t.mem.read c = s.mem.read c

/-- 10 R21 to R24, R26 to R32. What an instruction that does not panic leaves alone: phase, fault, `icount`, `cap`,
PANIC and the configuration, whatever it is; `running` but for EXIT; OUT but for the two PRINTs; HOST but for
STRING_SYSTEM; DIAG but for STRING_SYSTEM and the fallback; the random input but for INT_RANDOM. Each channel is
only ever appended to. -/
def Obligations.ControlStateAndChannelsFrame : Prop :=
  ∀ (s t : State) (i : Instr), s.phase ≠ .panicked → exec i s = .next t →
    t.icount = s.icount ∧ t.cap = s.cap ∧ t.fuzzSafe = s.fuzzSafe ∧ t.pending = s.pending ∧ t.replies = s.replies ∧
    (t.phase ≠ .panicked → t.phase = s.phase ∧ t.fault = s.fault ∧ t.panicCh = s.panicCh ∧
      (i ≠ .exit → t.running = s.running)) ∧
    s.outCh <+: t.outCh ∧ s.hostCh <+: t.hostCh ∧ s.diagCh <+: t.diagCh ∧
    (t.outCh = s.outCh ∨ (∃ b, i = .intPrint b) ∨ ∃ b, i = .stringPrint b) ∧
    (t.hostCh = s.hostCh ∨ ((∃ b, i = .stringSystem b) ∧ s.fuzzSafe = false)) ∧
    (t.diagCh = s.diagCh ∨ ((∃ b, i = .stringSystem b) ∧ s.fuzzSafe = true) ∨ ∃ b, i = .unknown b) ∧
    (t.draws = s.draws ∨ ((∃ b, i = .intRandom b) ∧ t.draws = s.draws + 1))

/-- 10 R17 (decision D8 for panics). Every instruction that is no jump, call or return leaves `ip` at the byte after
its last, wrapping at 65536, or on its own opcode byte if it panics; a conditional jump leaves it at its target or
after its three bytes. -/
def Obligations.InstructionPointerAfterInstruction : Prop :=
  (∀ (s t : State) (i : Instr), s.phase ≠ .panicked → exec i s = .next t → setsIp i = false →
    (t.phase = .panicked → t.ip = s.ip) ∧
    (t.phase ≠ .panicked → t.ip.toNat = (s.ip.toNat + (encode i).length) % 65536)) ∧
  (∀ (s t : State) (target : Half), exec (.jumpZ target) s = .next t ∨ exec (.jumpNz target) s = .next t →
    t.ip = target ∨ t.ip.toNat = (s.ip.toNat + 3) % 65536)

/-! ### Reset and the host's commands -/

/-- 10 R34, 70 R230 (decisions D8, D17, D19, D31; the stack slots, `fuzz_safe` = 0, the empty memory and the model's
own fields are the model's choices: log 1, 2, 3, 4, 5). The state after reset, field by field; it is what CREATE makes
of an image of one zero byte. -/
def Obligations.ResetValues : Prop :=
  (∀ r : Reg, State.reset.regs[r] = .number 0) ∧ State.reset.ip = 0 ∧ State.reset.z = false ∧
  State.reset.sp.val = 0 ∧ (∀ (k : Nat) (h : k < 1024), State.reset.stack[k] = 0) ∧
  (∀ a, State.reset.mem.read a = 0) ∧ State.reset.running = true ∧ State.reset.phase = .loaded ∧
  State.reset.fault = none ∧ State.reset.icount = 0 ∧ State.reset.cap = 0 ∧
  State.reset.outCh = [] ∧ State.reset.hostCh = [] ∧ State.reset.diagCh = [] ∧ State.reset.panicCh = [] ∧
  State.reset.fuzzSafe = false ∧
  State.reset.accept (.create [0] false) = (State.reset, .created)

/-- 70 R230, R231, 10 R34 (decisions D17, D28, D31). CREATE outside phase EXECUTING: with 1 to 65535 bytes it
succeeds, and memory is the image with zeros above it, the registers are all `Number(0)`, and the rest is as after
reset; with no byte or more than 65535 it fails, to phase EMPTY with no PANIC record. In phase EXECUTING it is
refused. The model's choices, no rules of the spec: the value 0 of every stack slot (log 3), that `draws`, `pending` and
`replies` stay as they were (log 2, 5), and that in phase EMPTY `fault` is none and PANIC is empty (log 13). -/
def Obligations.CreateLoadsImageOrFails : Prop :=
  ∀ (s : State) (image : List Byte) (fz : Bool),
    (s.phase = .executing → s.accept (.create image fz) = (s, .refused)) ∧
    (s.phase ≠ .executing → 1 ≤ image.length → image.length ≤ 65535 →
      ∃ t, s.accept (.create image fz) = (t, .created) ∧ t.mem.wf = true ∧
        (∀ (k : Nat) (h : k < image.length), t.mem.read (BitVec.ofNat 16 k) = image[k]) ∧
        (∀ a : Addr, image.length ≤ a.toNat → t.mem.read a = 0) ∧
        t = { State.reset with mem := t.mem, fuzzSafe := fz, draws := s.draws, pending := s.pending,
                               replies := s.replies }) ∧
    (s.phase ≠ .executing → image.length = 0 ∨ 65535 < image.length →
      ∃ t, s.accept (.create image fz) = (t, .createFailed) ∧ t.phase = .empty ∧ t.panicCh = [] ∧ t.fault = none)

/-- 70 R232. After every successful CREATE `mem[65535]` is 0, no image filling more than `mem[0]` to `mem[65534]`,
and every byte sequence of legal length is a program: it is accepted unchecked, and after RUN the first step dispatches
the instruction at address 0, whose opcode byte is byte 0 of the image. -/
def Obligations.EveryLegalImageIsAProgram : Prop :=
  (∀ (s t : State) (image : List Byte) (fz : Bool), s.accept (.create image fz) = (t, .created) →
    t.mem.read 65535 = 0 ∧ image.length ≤ 65535) ∧
  (∀ (s : State) (image : List Byte) (fz : Bool) (cap : Int), s.phase ≠ .executing → 1 ≤ image.length →
    image.length ≤ 65535 → ∃ t u, s.accept (.create image fz) = (t, .created) ∧
      t.accept (.run cap) = (u, .started) ∧ u.ip = 0 ∧ u.mem = t.mem ∧ image.head? = some (u.mem.read 0) ∧
      ∃ (i : Instr) (v : State), decode (fetch Config.opc u.mem 0) = .ok (i, []) ∧ exec i u = .next v ∧
        step u = afterExec (.next v))

/-- 70 R231, R233, R234, R235, R238, R239, 40 R95 (decisions D18, D19, D21, D32). RUN in phase LOADED or STOPPED sets
`ip`, `running`, `icount`, `cap` and the phase and nothing else, so a second run finds registers, Z, stack, memory and
channels as they were; in the other phases it is refused with no change. DUMP in phases LOADED, STOPPED and PANICKED
answers the sixteen words and Z, and `sp`, the stack entries at or below it and `mem` (that the one answer holds these
too, and no slot above `sp`, is log 19), and changes nothing. DESTROY outside EXECUTING leaves phase EMPTY and no trace
of the instance. The model's choices: what the fields hold in phase EMPTY (log 13), and that DESTROY is accepted in
phase EMPTY too (log 17). -/
def Obligations.RunDumpDestroyCommands : Prop :=
  (∀ (s : State) (cap : Int),
    (s.phase = .loaded ∨ s.phase = .stopped → s.accept (.run cap) =
      ({ s with ip := 0, running := true, icount := 0, cap := cap, phase := .executing }, .started)) ∧
    (s.phase = .empty ∨ s.phase = .panicked ∨ s.phase = .executing → s.accept (.run cap) = (s, .refused))) ∧
  (∀ s : State, (s.accept .dump).1 = s ∧
    (s.phase = .loaded ∨ s.phase = .stopped ∨ s.phase = .panicked →
      (s.accept .dump).2 = .dumped s.regs s.z s.sp.val (s.stack.toList.take s.sp.val) s.mem) ∧
    (s.phase = .empty ∨ s.phase = .executing → (s.accept .dump).2 = .refused)) ∧
  (∀ s : State, s.phase = .executing → s.accept .destroy = (s, .refused)) ∧
  (∀ s t : State, s.phase ≠ .executing → t.phase ≠ .executing → s.draws = t.draws → s.pending = t.pending →
    s.replies = t.replies → (s.accept .destroy).1.phase = .empty ∧ s.accept .destroy = t.accept .destroy)

/-- 10 R22, R33, 40 R94, 70 R240 (the queue of commands is the model's, log 5). Outside phase EXECUTING a step
carries out the host's next command and records its answer, and with none to come leaves the state as it is; in phase
EXECUTING the host has no move. -/
def Obligations.HostActsOnlyOutsideRun : Prop :=
  ∀ (opc : OpcodeMap) (s : State),
    (s.phase ≠ .executing → s.pending = [] → stepWith opc s = .next s) ∧
    (s.phase ≠ .executing → ∀ c rest, s.pending = c :: rest →
      ∃ t r, ({ s with pending := rest } : State).accept c = (t, r) ∧ t.pending = rest ∧
        stepWith opc s = .next { t with replies := s.replies ++ [r] }) ∧
    (s.phase = .executing → ∀ t, stepWith opc s = .next t →
      t.pending = s.pending ∧ t.replies = s.replies ∧ t.fuzzSafe = s.fuzzSafe ∧ t.cap = s.cap)

/-! ### Invariants of every step -/

/-- 10 R20 to R24, R34, 40 R93. The invariant (DEDUCED, log 15) holds after reset, and after a
CREATE and a RUN of any image. -/
def Obligations.ResetMeetsInvariant : Prop :=
  State.reset.Inv ∧
  ∀ (image : List Byte) (cap : Int), 1 ≤ image.length → image.length ≤ 65535 →
    (((State.reset.accept (.create image false)).1).accept (.run cap)).1.Inv

/-- 10 R21 to R24, R31, 20 R40, 40 R93 (DEDUCED, log 15). Every step, from every state that meets the invariant and
under every opcode map, gives a state that meets it. -/
def Obligations.StepKeepsInvariant : Prop :=
  ∀ (opc : OpcodeMap) (s t : State), s.Inv → stepWith opc s = .next t → t.Inv

/-- 10 R20, R37 (R37 derived in the spec). The stack slots above `sp` cannot be observed: from two states that differ
in them alone, every step gives two states that again differ, if at all, in slots above `sp` alone. -/
def Obligations.StaleStackSlotsUnobservable : Prop :=
  ∀ (opc : OpcodeMap) (s s' t t' : State), AlikeBelowSp s s' → stepWith opc s = .next t →
    stepWith opc s' = .next t' → AlikeBelowSp t t'
end

