-- ==== Sys2Proof/Laws/Memory.lean ====
section
/-! SUPPORT. Memory: a read after a write, the bytes a read of several sees, the image CREATE installs, the loop
of MEMCPY, and that every operation keeps the canonical form. -/

namespace Sys2Proof.Machine

/-! ### The canonical form -/

theorem Memory.wfFrom_mono {lo lo' : Nat} (h : lo' ≤ lo) :
    ∀ {m : Memory}, Memory.wfFrom lo m = true → Memory.wfFrom lo' m = true
  | [], _ => rfl
  | (k, b) :: m, hw => by
    simp only [Memory.wfFrom, Bool.and_eq_true, decide_eq_true_eq] at hw ⊢
    exact ⟨⟨⟨by omega, hw.1.1.2⟩, hw.1.2⟩, hw.2⟩

theorem Memory.wfFrom_cons {lo a : Nat} {v : Byte} {m : Memory} (ha : lo ≤ a) (hs : a < 65536)
    (h : Memory.wfFrom (a + 1) m = true) : Memory.wfFrom lo (Memory.cons a v m) = true := by
  unfold Memory.cons
  split
  · exact Memory.wfFrom_mono (by omega) h
  · simp only [Memory.wfFrom, Bool.and_eq_true, decide_eq_true_eq, bne_iff_ne, ne_eq]
    exact ⟨⟨⟨ha, hs⟩, by assumption⟩, h⟩

theorem Memory.wfFrom_insert {a : Nat} {v : Byte} (hs : a < 65536) :
    ∀ {m : Memory} {lo : Nat}, lo ≤ a → Memory.wfFrom lo m = true →
      Memory.wfFrom lo (Memory.insert m a v) = true
  | [], lo, ha, _ => Memory.wfFrom_cons ha hs rfl
  | (k, b) :: m, lo, ha, h => by
    have hw := h
    simp only [Memory.wfFrom, Bool.and_eq_true, decide_eq_true_eq] at hw
    unfold Memory.insert
    split
    · simp only [Memory.wfFrom, Bool.and_eq_true, decide_eq_true_eq]
      exact ⟨hw.1, Memory.wfFrom_insert hs (by omega) hw.2⟩
    · split
      · rename_i heq
        exact Memory.wfFrom_cons ha hs (heq ▸ hw.2)
      · refine Memory.wfFrom_cons ha hs ?_
        simp only [Memory.wfFrom, Bool.and_eq_true, decide_eq_true_eq]
        exact ⟨⟨⟨by omega, hw.1.1.2⟩, hw.1.2⟩, hw.2⟩

theorem Memory.write_wf {m : Memory} (h : m.wf = true) (a : Addr) (v : Byte) : (m.write a v).wf = true :=
  Memory.wfFrom_insert a.isLt (Nat.zero_le _) h

theorem Memory.writeBytes_wf : ∀ (bs : List Byte) (m : Memory) (a : Addr), m.wf = true → (m.writeBytes a bs).wf = true
  | [], _, _, h => h
  | _ :: bs, m, a, h => Memory.writeBytes_wf bs _ _ (m.write_wf h a _)

theorem Memory.copy_wf (wrap : Nat) :
    ∀ (n s d : Nat) (m : Memory), m.wf = true → (Memory.copy wrap n s d m).wf = true
  | 0, _, _, _, h => h
  | n + 1, s, d, m, h => Memory.copy_wf wrap n (s + 1) (d + 1) _ (m.write_wf h _ _)

theorem Memory.wfFrom_ofImage :
    ∀ (image : List Byte) (k : Nat), k + image.length ≤ 65536 → Memory.wfFrom k (Memory.ofImage k image) = true
  | [], _, _ => rfl
  | b :: bs, k, h => by
    simp only [List.length_cons] at h
    exact Memory.wfFrom_cons (Nat.le_refl _) (by omega) (Memory.wfFrom_ofImage bs (k + 1) (by omega))

theorem Memory.ofImage_wf {image : List Byte} (h : image.length ≤ 65536) : (Memory.ofImage 0 image).wf = true :=
  Memory.wfFrom_ofImage image 0 (by omega)

/-! ### Reading what was written -/

theorem Memory.lookup_of_wfFrom {a : Nat} :
    ∀ {m : Memory} {lo : Nat}, Memory.wfFrom lo m = true → a < lo → Memory.lookup m a = Memory.unlisted
  | [], _, _, _ => rfl
  | (k, b) :: m, lo, h, ha => by
    simp only [Memory.wfFrom, Bool.and_eq_true, decide_eq_true_eq] at h
    rw [Memory.lookup, if_neg (by omega)]
    exact Memory.lookup_of_wfFrom h.2 (by omega)

theorem Memory.lookup_cons_ne {a k : Nat} (h : k ≠ a) (v : Byte) (m : Memory) :
    Memory.lookup (Memory.cons k v m) a = Memory.lookup m a := by
  unfold Memory.cons
  split
  · rfl
  · rw [Memory.lookup, if_neg h]

theorem Memory.lookup_cons_same {a : Nat} {v : Byte} {m : Memory} (h : Memory.wfFrom (a + 1) m = true) :
    Memory.lookup (Memory.cons a v m) a = v := by
  unfold Memory.cons
  split
  · rename_i hv
    rw [Memory.lookup_of_wfFrom h (by omega), hv]
  · rw [Memory.lookup, if_pos rfl]

theorem Memory.lookup_insert_ne {a c : Nat} (h : a ≠ c) (v : Byte) :
    ∀ m : Memory, Memory.lookup (Memory.insert m a v) c = Memory.lookup m c
  | [] => Memory.lookup_cons_ne h v []
  | (k, b) :: m => by
    unfold Memory.insert
    split
    · simp only [Memory.lookup, Memory.lookup_insert_ne h v m]
    · split
      · rename_i heq
        rw [Memory.lookup_cons_ne h, Memory.lookup, if_neg (by omega)]
      · rw [Memory.lookup_cons_ne h]

theorem Memory.lookup_insert_same {a : Nat} (v : Byte) :
    ∀ {m : Memory} {lo : Nat}, Memory.wfFrom lo m = true → Memory.lookup (Memory.insert m a v) a = v
  | [], _, _ => Memory.lookup_cons_same (m := []) rfl
  | (k, b) :: m, lo, h => by
    simp only [Memory.wfFrom, Bool.and_eq_true, decide_eq_true_eq] at h
    unfold Memory.insert
    split
    · rw [Memory.lookup, if_neg (by omega)]
      exact Memory.lookup_insert_same v h.2
    · split
      · rename_i heq
        exact Memory.lookup_cons_same (heq ▸ h.2)
      · refine Memory.lookup_cons_same ?_
        simp only [Memory.wfFrom, Bool.and_eq_true, decide_eq_true_eq]
        exact ⟨⟨⟨by omega, h.1.1.2⟩, h.1.2⟩, h.2⟩

theorem Memory.read_write_same {m : Memory} (h : m.wf = true) (a : Addr) (v : Byte) : (m.write a v).read a = v :=
  Memory.lookup_insert_same v h

theorem Memory.read_write_ne (m : Memory) {a c : Addr} (h : a ≠ c) (v : Byte) :
    (m.write a v).read c = m.read c :=
  Memory.lookup_insert_ne (fun e => h (BitVec.eq_of_toNat_eq e)) v m

theorem Memory.read_write {m : Memory} (h : m.wf = true) (a c : Addr) (v : Byte) :
    (m.write a v).read c = if a = c then v else m.read c := by
  split
  · rename_i e
    rw [← e, m.read_write_same h]
  · rename_i e
    exact m.read_write_ne e v

/-! ### Several bytes -/

@[simp] theorem Memory.readBytes_length (m : Memory) : ∀ (n : Nat) (a : Addr), (m.readBytes a n).length = n
  | 0, _ => rfl
  | n + 1, a => by simp [Memory.readBytes, Memory.readBytes_length m n]

/-- The k-th byte read stands at `(a + k) mod 65536` (30 R60). -/
theorem Memory.readBytes_getElem? (m : Memory) :
    ∀ (n k : Nat) (a : Addr), k < n → (m.readBytes a n)[k]? = some (m.read (a + BitVec.ofNat 16 k))
  | n + 1, 0, a, _ => by simp [Memory.readBytes]
  | n + 1, k + 1, a, h => by
    rw [Memory.readBytes, List.getElem?_cons_succ, Memory.readBytes_getElem? m n k (a + 1) (by omega)]
    congr 2
    apply BitVec.eq_of_toNat_eq
    simp
    omega

/-- The image CREATE installs reads back, and every byte beside it is unlisted (70 R230). -/
theorem Memory.lookup_ofImage :
    ∀ (image : List Byte) (k a : Nat), k + image.length ≤ 65536 →
      Memory.lookup (Memory.ofImage k image) a =
        if h : k ≤ a ∧ a - k < image.length then image[a - k] else Memory.unlisted
  | [], k, a, _ => by simp [Memory.ofImage, Memory.lookup]
  | b :: bs, k, a, h => by
    simp only [List.length_cons] at h
    have hw := Memory.wfFrom_ofImage bs (k + 1) (by omega)
    rw [Memory.ofImage]
    by_cases e : k = a
    · subst e
      rw [Memory.lookup_cons_same hw]
      simp
    · rw [Memory.lookup_cons_ne e, Memory.lookup_ofImage bs (k + 1) a (by omega)]
      by_cases g : k + 1 ≤ a ∧ a - (k + 1) < bs.length
      · have g' : k ≤ a ∧ a - k < (b :: bs).length := by simp only [List.length_cons]; omega
        rw [dif_pos g, dif_pos g']
        have : a - k = a - (k + 1) + 1 := by omega
        simp only [this, List.getElem_cons_succ]
      · have g' : ¬ (k ≤ a ∧ a - k < (b :: bs).length) := by simp only [List.length_cons]; omega
        rw [dif_neg g, dif_neg g']

/-! ### The loop of MEMCPY -/

/-- The loop as a fold over its steps, in ascending order (47 R167). -/
theorem Memory.copy_eq_foldl (wrap : Nat) : ∀ (n s d : Nat) (m : Memory),
    Memory.copy wrap n s d m = (List.range n).foldl (fun m k =>
      m.write (BitVec.ofNat 16 ((d + k) % wrap)) (m.read (BitVec.ofNat 16 ((s + k) % wrap)))) m
  | 0, _, _, _ => rfl
  | n + 1, s, d, m => by
    rw [Memory.copy, Memory.copy_eq_foldl wrap n, List.range_succ_eq_map, List.foldl_cons, List.foldl_map]
    simp only [Nat.add_zero, Nat.succ_eq_add_one]
    congr 1
    funext m k
    rw [show d + (k + 1) = d + 1 + k by omega, show s + (k + 1) = s + 1 + k by omega]

/-- A byte that is no destination of the copy keeps its value. -/
theorem Memory.copy_read_other (wrap : Nat) (c : Addr) :
    ∀ (n s d : Nat) (m : Memory), (∀ i, i < n → BitVec.ofNat 16 ((d + i) % wrap) ≠ c) →
      (Memory.copy wrap n s d m).read c = m.read c
  | 0, _, _, _, _ => rfl
  | n + 1, s, d, m, h => by
    rw [Memory.copy, Memory.copy_read_other wrap c n (s + 1) (d + 1) _
      (fun i hi => by have := h (i + 1) (by omega); rwa [show d + (i + 1) = d + 1 + i by omega] at this)]
    exact m.read_write_ne (by simpa using h 0 (by omega)) _

end Sys2Proof.Machine
end

