-- ==== Sys2Proof/Laws/Decode.lean ====
section
/-! SUPPORT. The pieces of decoding, and that the bytes fetched at any address decode to an instruction with
nothing left over (30 R68: decoding is total). -/

namespace Sys2Proof

theorem imm16_toNat (lo hi : Byte) : (imm16 lo hi).toNat = lo.toNat + 256 * hi.toNat := by
  have := lo.isLt
  have := hi.isLt
  simp only [imm16, BitVec.toNat_ofNat]
  omega

@[simp] theorem imm16_low_high (v : Half) : imm16 (lowByte v) (highByte v) = v := by
  have := v.isLt
  apply BitVec.eq_of_toNat_eq
  rw [imm16_toNat]
  simp only [lowByte, highByte, BitVec.toNat_ofNat]
  omega

@[simp] theorem lowByte_imm16 (lo hi : Byte) : lowByte (imm16 lo hi) = lo := by
  have := lo.isLt
  apply BitVec.eq_of_toNat_eq
  rw [lowByte, imm16_toNat, BitVec.toNat_ofNat]
  omega

@[simp] theorem highByte_imm16 (lo hi : Byte) : highByte (imm16 lo hi) = hi := by
  have := lo.isLt
  have := hi.isLt
  apply BitVec.eq_of_toNat_eq
  rw [highByte, imm16_toNat, BitVec.toNat_ofNat]
  omega

theorem Mnemonic.mem_all (m : Mnemonic) : m ∈ Mnemonic.all := by cases m <;> decide

/-- The opcode byte of a mnemonic selects it, under an injective map (30 R68). -/
theorem Mnemonic.ofByte?_opc {opc : OpcodeMap} (h : opc.Injective) (m : Mnemonic) :
    Mnemonic.ofByte? opc (opc m) = some m := by
  unfold Mnemonic.ofByte?
  cases e : Mnemonic.all.find? fun m' => opc m' == opc m with
  | none =>
    have := List.find?_eq_none.mp e m m.mem_all
    simp at this
  | some m' =>
    have := List.find?_some e
    rw [h m' m (by simpa using this)]

/-- The mnemonic selected by a byte has that opcode byte. -/
theorem Mnemonic.opc_of_ofByte? {opc : OpcodeMap} {b : Byte} {m : Mnemonic} (h : Mnemonic.ofByte? opc b = some m) :
    opc m = b := by
  have := List.find?_some h
  simpa using this

/-- A byte selects no mnemonic exactly when it is unassigned (49 R190). -/
theorem Mnemonic.ofByte?_eq_none {opc : OpcodeMap} {b : Byte} :
    Mnemonic.ofByte? opc b = none ↔ unassigned opc b = true := by
  simp [Mnemonic.ofByte?, unassigned, List.find?_eq_none, List.all_eq_true]

/-- The opcode byte of `m` selects the operand format of `m`, under an injective map. -/
theorem decodeWith_opc {opc : OpcodeMap} (h : opc.Injective) (m : Mnemonic) (bytes : List Byte) :
    decodeWith opc (opc m :: bytes) = decodeOperands m bytes := by
  simp only [decodeWith, Mnemonic.ofByte?_opc h]

/-- A literal of the length its two length bytes give is taken whole (30 R62). -/
theorem takeRS_literal (m : Mnemonic) (f : Byte → List Byte → Instr) (r1 lo hi : Byte) (lit rest : List Byte)
    (h : lit.length = lo.toNat + 256 * hi.toNat) :
    takeRS m f (r1 :: lo :: hi :: (lit ++ rest)) = .ok (f r1 lit, rest) := by
  have e : (imm16 lo hi).toNat = lit.length := by rw [imm16_toNat, h]
  simp [takeRS, e]

namespace Machine

/-- The bytes fetched at an address are one whole instruction, whatever memory holds. -/
theorem decodeWith_fetch (opc : OpcodeMap) (m : Memory) (a : Addr) :
    ∃ i, decodeWith opc (fetch opc m a) = .ok (i, []) := by
  unfold fetch fetchCount instrBytes
  cases e : Mnemonic.ofByte? opc (m.read a) with
  | none => exact ⟨.unknown (m.read a), by simp only [Memory.readBytes, decodeWith, e]⟩
  | some mn =>
    have lit : ∀ f : Byte → List Byte → Instr,
        ∃ i, takeRS mn f (m.read (a + 1) :: m.read (a + 2) :: m.read (a + 3) ::
          m.readBytes (a + 4) (imm16 (m.read (a + 2)) (m.read (a + 3))).toNat) = .ok (i, []) := by
      intro f
      refine ⟨f (m.read (a + 1)) (m.readBytes (a + 4) (imm16 (m.read (a + 2)) (m.read (a + 3))).toNat), ?_⟩
      simp [takeRS, List.take_of_length_le, List.drop_of_length_le]
    have a2 : a + 1 + 1 = a + 2 := by rw [BitVec.add_assoc]; rfl
    have a3 : a + 2 + 1 = a + 3 := by rw [BitVec.add_assoc]; rfl
    have a4 : a + 3 + 1 = a + 4 := by rw [BitVec.add_assoc]; rfl
    have hlen : ∀ n, m.readBytes a (4 + n) =
        m.read a :: m.read (a + 1) :: m.read (a + 2) :: m.read (a + 3) :: m.readBytes (a + 4) n := by
      intro n
      rw [Nat.add_comm 4 n]
      simp only [Memory.readBytes, a2, a3, a4]
    cases mn
    case stringStore | cmpString =>
      simp only [Mnemonic.format, hlen, decodeWith, e, decodeOperands]
      exact lit _
    all_goals
      simp only [Mnemonic.format, Memory.readBytes, decodeWith, e, decodeOperands, takeR, takeRR, takeRRR, takeI, takeRI]
      exact ⟨_, rfl⟩

end Machine

end Sys2Proof
end

