-- ==== Sys2Proof/Laws/Operands.lean ====
section
/-! SUPPORT. What each operand form can do: it goes on with the value, or raises its one panic. The panic cases
carry the conditions of 60 R200. -/

namespace Sys2Proof.Machine

/-- The operand byte that names register `r` (30 R66). -/
theorem toNat_ofNat_reg (r : Reg) : (BitVec.ofNat 8 r.val).toNat = r.val := by
  have := r.isLt
  simp
  omega

@[simp] theorem withReg_reg (r : Reg) (s : State) (k : Reg → Result) :
    withReg (BitVec.ofNat 8 r.val) s k = k r := by
  have h := r.isLt
  simp only [withReg, toNat_ofNat_reg]
  rw [dif_pos h]

theorem withReg_of_bad {b : Byte} (hb : 16 ≤ b.toNat) (s : State) (k : Reg → Result) :
    withReg b s k = raise s .badRegister b.toNat := by
  rw [withReg, dif_neg]
  simp only [Config.nRegs]
  omega

/-- A register byte either names a register or is bad. -/
theorem byte_cases (b : Byte) : (∃ r : Reg, b = BitVec.ofNat 8 r.val) ∨ 16 ≤ b.toNat := by
  by_cases h : b.toNat < 16
  · refine .inl ⟨⟨b.toNat, h⟩, ?_⟩
    simp
  · exact .inr (by omega)

theorem withNum_number {i : Reg} {s : State} {n : Number} (h : s.reg i = .number n) (k : Number → Result) :
    withNum i s k = k n := by simp only [withNum, h]

theorem withNum_string {i : Reg} {s : State} {t : Str} (h : s.reg i = .string t) (k : Number → Result) :
    withNum i s k = raise s .typeMismatch i.val := by simp only [withNum, h]

theorem withStr_string {i : Reg} {s : State} {t : Str} (h : s.reg i = .string t) (k : Str → Result) :
    withStr i s k = k t := by simp only [withStr, h]

theorem withStr_number {i : Reg} {s : State} {n : Number} (h : s.reg i = .number n) (k : Str → Result) :
    withStr i s k = raise s .typeMismatch i.val := by simp only [withStr, h]

theorem withAddress_of_range {a : Number} {addr : Addr} (h : a.toInt = addr.toNat) (s : State) (k : Addr → Result) :
    withAddress a s k = k addr := by
  have := addr.isLt
  rw [withAddress, if_neg (by omega), h]
  congr 1
  apply BitVec.eq_of_toNat_eq
  simp

theorem withAddress_of_outside {a : Number} (h : a.toInt < 0 ∨ a.toInt > 65535) (s : State) (k : Addr → Result) :
    withAddress a s k = raise s .addressRange a.toInt := by rw [withAddress, if_pos h]

theorem withCopyAddress_of_nonneg {a : Number} (h : 0 ≤ a.toInt) (s : State) (k : Nat → Result) :
    withCopyAddress a s k = k a.toInt.toNat := by rw [withCopyAddress, if_neg (by omega)]

theorem withCopyAddress_of_neg {a : Number} (h : a.toInt < 0) (s : State) (k : Nat → Result) :
    withCopyAddress a s k = raise s .negativeCopy a.toInt := by rw [withCopyAddress, if_pos h]

theorem withPush_of_room {s : State} (h : s.sp.val < Config.stackSlots) (v : Number) (k : State → Result) :
    withPush v s k = k (s.pushed v h) := by
  rw [withPush, dif_neg]
  simp only [Config.stackMaxSp, Config.stackSlots] at *
  omega

theorem withPush_of_full {s : State} (h : s.sp.val = 1024) (v : Number) (k : State → Result) :
    withPush v s k = raise s .stackOverflow 1025 := by
  rw [withPush, dif_pos (by simp only [Config.stackMaxSp]; omega), h]
  rfl

theorem withPop_of_pos {s : State} (h : s.sp.val ≠ 0) (k : Number → State → Result) :
    withPop s k = k (s.slot s.sp) s.popped := by rw [withPop, if_neg h]

theorem withPop_of_empty {s : State} (h : s.sp.val = 0) (k : Number → State → Result) :
    withPop s k = raise s .stackUnderflow 0 := by rw [withPop, if_pos h, h]; rfl

/-- The state after a pop from a stack of `k + 1`, and what is popped (48 R176). -/
theorem State.popped_eq {s : State} {k : Nat} (hk : k < 1024) (h : s.sp.val = k + 1) :
    s.popped = { s with sp := ⟨k, Nat.lt_succ_of_lt hk⟩ } ∧ s.slot s.sp = s.stack[k] := by
  constructor
  · simp only [State.popped]
    congr 1
    apply Fin.ext
    simp [h]
  · simp [State.slot, h]

/-! ### Numbers -/

/-- The range of a Number (10 R12). -/
theorem number_range (n : Number) : -2147483648 ≤ n.toInt ∧ n.toInt ≤ 2147483647 := by
  have := BitVec.le_toInt n
  have := BitVec.toInt_lt (x := n)
  omega

/-- `wrapW(v)` is congruent to `v` modulo 2^32 (00 R7). -/
theorem wrapW_congruent (v : Int) : ((wrapW v).toInt - v) % 4294967296 = 0 := by
  simp only [wrapW, BitVec.toInt_ofInt, Int.bmod_def]
  split <;> omega

/-- `wrapW(v)` is `v` when `v` is in range. -/
theorem wrapW_toInt_of_range {v : Int} (lo : -2147483648 ≤ v) (hi : v ≤ 2147483647) : (wrapW v).toInt = v := by
  simp only [wrapW, BitVec.toInt_ofInt, Int.bmod_def]
  split <;> omega

@[simp] theorem wrapW_toInt_self (n : Number) : wrapW n.toInt = n := by simp [wrapW]

@[simp] theorem ofHalf_toInt (v : Half) : (ofHalf v).toInt = v.toNat := by
  have := v.isLt
  rw [ofHalf, wrapW_toInt_of_range] <;> omega

@[simp] theorem ofByte_toInt (b : Byte) : (ofByte b).toInt = b.toNat := by
  have := b.isLt
  rw [ofByte, wrapW_toInt_of_range] <;> omega

/-- The stored byte is the value modulo 256 (47 R166). -/
theorem lowByteOf_toNat (n : Number) : ((lowByteOf n).toNat : Int) = n.toInt % 256 := by
  have := n.isLt
  simp only [lowByteOf, BitVec.toNat_ofNat, BitVec.toInt_eq_toNat_cond]
  split <;> omega

end Sys2Proof.Machine
end

