-- ==== Sys2Proof/Laws/State.lean ====
section
/-! SUPPORT. What every update of the state does to every field, one lemma each, so that no proof unfolds a
record update. -/

namespace Sys2Proof.Machine

/-! ### setReg -/

@[simp] theorem State.setReg_regs (s : State) (i : Reg) (v : Value) : (s.setReg i v).regs = s.regs.set i v := rfl
@[simp] theorem State.setReg_ip (s : State) (i : Reg) (v : Value) : (s.setReg i v).ip = s.ip := rfl
@[simp] theorem State.setReg_z (s : State) (i : Reg) (v : Value) : (s.setReg i v).z = s.z := rfl
@[simp] theorem State.setReg_sp (s : State) (i : Reg) (v : Value) : (s.setReg i v).sp = s.sp := rfl
@[simp] theorem State.setReg_stack (s : State) (i : Reg) (v : Value) : (s.setReg i v).stack = s.stack := rfl
@[simp] theorem State.setReg_mem (s : State) (i : Reg) (v : Value) : (s.setReg i v).mem = s.mem := rfl
@[simp] theorem State.setReg_running (s : State) (i : Reg) (v : Value) : (s.setReg i v).running = s.running := rfl
@[simp] theorem State.setReg_phase (s : State) (i : Reg) (v : Value) : (s.setReg i v).phase = s.phase := rfl
@[simp] theorem State.setReg_fault (s : State) (i : Reg) (v : Value) : (s.setReg i v).fault = s.fault := rfl
@[simp] theorem State.setReg_icount (s : State) (i : Reg) (v : Value) : (s.setReg i v).icount = s.icount := rfl
@[simp] theorem State.setReg_cap (s : State) (i : Reg) (v : Value) : (s.setReg i v).cap = s.cap := rfl
@[simp] theorem State.setReg_outCh (s : State) (i : Reg) (v : Value) : (s.setReg i v).outCh = s.outCh := rfl
@[simp] theorem State.setReg_hostCh (s : State) (i : Reg) (v : Value) : (s.setReg i v).hostCh = s.hostCh := rfl
@[simp] theorem State.setReg_diagCh (s : State) (i : Reg) (v : Value) : (s.setReg i v).diagCh = s.diagCh := rfl
@[simp] theorem State.setReg_panicCh (s : State) (i : Reg) (v : Value) : (s.setReg i v).panicCh = s.panicCh := rfl
@[simp] theorem State.setReg_fuzzSafe (s : State) (i : Reg) (v : Value) : (s.setReg i v).fuzzSafe = s.fuzzSafe := rfl
@[simp] theorem State.setReg_draws (s : State) (i : Reg) (v : Value) : (s.setReg i v).draws = s.draws := rfl
@[simp] theorem State.setReg_pending (s : State) (i : Reg) (v : Value) : (s.setReg i v).pending = s.pending := rfl
@[simp] theorem State.setReg_replies (s : State) (i : Reg) (v : Value) : (s.setReg i v).replies = s.replies := rfl
@[simp] theorem State.setReg_slot (s : State) (i : Reg) (v : Value) (k : Fin (Config.stackSlots + 1)) : (s.setReg i v).slot k = s.slot k := rfl

/-! ### setZ -/

@[simp] theorem State.setZ_regs (s : State) (b : Bool) : (s.setZ b).regs = s.regs := rfl
@[simp] theorem State.setZ_ip (s : State) (b : Bool) : (s.setZ b).ip = s.ip := rfl
@[simp] theorem State.setZ_z (s : State) (b : Bool) : (s.setZ b).z = b := rfl
@[simp] theorem State.setZ_sp (s : State) (b : Bool) : (s.setZ b).sp = s.sp := rfl
@[simp] theorem State.setZ_stack (s : State) (b : Bool) : (s.setZ b).stack = s.stack := rfl
@[simp] theorem State.setZ_mem (s : State) (b : Bool) : (s.setZ b).mem = s.mem := rfl
@[simp] theorem State.setZ_running (s : State) (b : Bool) : (s.setZ b).running = s.running := rfl
@[simp] theorem State.setZ_phase (s : State) (b : Bool) : (s.setZ b).phase = s.phase := rfl
@[simp] theorem State.setZ_fault (s : State) (b : Bool) : (s.setZ b).fault = s.fault := rfl
@[simp] theorem State.setZ_icount (s : State) (b : Bool) : (s.setZ b).icount = s.icount := rfl
@[simp] theorem State.setZ_cap (s : State) (b : Bool) : (s.setZ b).cap = s.cap := rfl
@[simp] theorem State.setZ_outCh (s : State) (b : Bool) : (s.setZ b).outCh = s.outCh := rfl
@[simp] theorem State.setZ_hostCh (s : State) (b : Bool) : (s.setZ b).hostCh = s.hostCh := rfl
@[simp] theorem State.setZ_diagCh (s : State) (b : Bool) : (s.setZ b).diagCh = s.diagCh := rfl
@[simp] theorem State.setZ_panicCh (s : State) (b : Bool) : (s.setZ b).panicCh = s.panicCh := rfl
@[simp] theorem State.setZ_fuzzSafe (s : State) (b : Bool) : (s.setZ b).fuzzSafe = s.fuzzSafe := rfl
@[simp] theorem State.setZ_draws (s : State) (b : Bool) : (s.setZ b).draws = s.draws := rfl
@[simp] theorem State.setZ_pending (s : State) (b : Bool) : (s.setZ b).pending = s.pending := rfl
@[simp] theorem State.setZ_replies (s : State) (b : Bool) : (s.setZ b).replies = s.replies := rfl
@[simp] theorem State.setZ_reg (s : State) (b : Bool) (j : Reg) : (s.setZ b).reg j = s.reg j := rfl
@[simp] theorem State.setZ_slot (s : State) (b : Bool) (k : Fin (Config.stackSlots + 1)) : (s.setZ b).slot k = s.slot k := rfl

/-! ### setIp -/

@[simp] theorem State.setIp_regs (s : State) (t : Addr) : (s.setIp t).regs = s.regs := rfl
@[simp] theorem State.setIp_ip (s : State) (t : Addr) : (s.setIp t).ip = t := rfl
@[simp] theorem State.setIp_z (s : State) (t : Addr) : (s.setIp t).z = s.z := rfl
@[simp] theorem State.setIp_sp (s : State) (t : Addr) : (s.setIp t).sp = s.sp := rfl
@[simp] theorem State.setIp_stack (s : State) (t : Addr) : (s.setIp t).stack = s.stack := rfl
@[simp] theorem State.setIp_mem (s : State) (t : Addr) : (s.setIp t).mem = s.mem := rfl
@[simp] theorem State.setIp_running (s : State) (t : Addr) : (s.setIp t).running = s.running := rfl
@[simp] theorem State.setIp_phase (s : State) (t : Addr) : (s.setIp t).phase = s.phase := rfl
@[simp] theorem State.setIp_fault (s : State) (t : Addr) : (s.setIp t).fault = s.fault := rfl
@[simp] theorem State.setIp_icount (s : State) (t : Addr) : (s.setIp t).icount = s.icount := rfl
@[simp] theorem State.setIp_cap (s : State) (t : Addr) : (s.setIp t).cap = s.cap := rfl
@[simp] theorem State.setIp_outCh (s : State) (t : Addr) : (s.setIp t).outCh = s.outCh := rfl
@[simp] theorem State.setIp_hostCh (s : State) (t : Addr) : (s.setIp t).hostCh = s.hostCh := rfl
@[simp] theorem State.setIp_diagCh (s : State) (t : Addr) : (s.setIp t).diagCh = s.diagCh := rfl
@[simp] theorem State.setIp_panicCh (s : State) (t : Addr) : (s.setIp t).panicCh = s.panicCh := rfl
@[simp] theorem State.setIp_fuzzSafe (s : State) (t : Addr) : (s.setIp t).fuzzSafe = s.fuzzSafe := rfl
@[simp] theorem State.setIp_draws (s : State) (t : Addr) : (s.setIp t).draws = s.draws := rfl
@[simp] theorem State.setIp_pending (s : State) (t : Addr) : (s.setIp t).pending = s.pending := rfl
@[simp] theorem State.setIp_replies (s : State) (t : Addr) : (s.setIp t).replies = s.replies := rfl
@[simp] theorem State.setIp_reg (s : State) (t : Addr) (j : Reg) : (s.setIp t).reg j = s.reg j := rfl
@[simp] theorem State.setIp_slot (s : State) (t : Addr) (k : Fin (Config.stackSlots + 1)) : (s.setIp t).slot k = s.slot k := rfl

/-! ### advance -/

@[simp] theorem State.advance_regs (s : State) (n : Nat) : (s.advance n).regs = s.regs := rfl
@[simp] theorem State.advance_ip (s : State) (n : Nat) : (s.advance n).ip = s.ip + BitVec.ofNat 16 n := rfl
@[simp] theorem State.advance_z (s : State) (n : Nat) : (s.advance n).z = s.z := rfl
@[simp] theorem State.advance_sp (s : State) (n : Nat) : (s.advance n).sp = s.sp := rfl
@[simp] theorem State.advance_stack (s : State) (n : Nat) : (s.advance n).stack = s.stack := rfl
@[simp] theorem State.advance_mem (s : State) (n : Nat) : (s.advance n).mem = s.mem := rfl
@[simp] theorem State.advance_running (s : State) (n : Nat) : (s.advance n).running = s.running := rfl
@[simp] theorem State.advance_phase (s : State) (n : Nat) : (s.advance n).phase = s.phase := rfl
@[simp] theorem State.advance_fault (s : State) (n : Nat) : (s.advance n).fault = s.fault := rfl
@[simp] theorem State.advance_icount (s : State) (n : Nat) : (s.advance n).icount = s.icount := rfl
@[simp] theorem State.advance_cap (s : State) (n : Nat) : (s.advance n).cap = s.cap := rfl
@[simp] theorem State.advance_outCh (s : State) (n : Nat) : (s.advance n).outCh = s.outCh := rfl
@[simp] theorem State.advance_hostCh (s : State) (n : Nat) : (s.advance n).hostCh = s.hostCh := rfl
@[simp] theorem State.advance_diagCh (s : State) (n : Nat) : (s.advance n).diagCh = s.diagCh := rfl
@[simp] theorem State.advance_panicCh (s : State) (n : Nat) : (s.advance n).panicCh = s.panicCh := rfl
@[simp] theorem State.advance_fuzzSafe (s : State) (n : Nat) : (s.advance n).fuzzSafe = s.fuzzSafe := rfl
@[simp] theorem State.advance_draws (s : State) (n : Nat) : (s.advance n).draws = s.draws := rfl
@[simp] theorem State.advance_pending (s : State) (n : Nat) : (s.advance n).pending = s.pending := rfl
@[simp] theorem State.advance_replies (s : State) (n : Nat) : (s.advance n).replies = s.replies := rfl
@[simp] theorem State.advance_reg (s : State) (n : Nat) (j : Reg) : (s.advance n).reg j = s.reg j := rfl
@[simp] theorem State.advance_slot (s : State) (n : Nat) (k : Fin (Config.stackSlots + 1)) : (s.advance n).slot k = s.slot k := rfl

/-! ### clearRunning -/

@[simp] theorem State.clearRunning_regs (s : State) : (s.clearRunning).regs = s.regs := rfl
@[simp] theorem State.clearRunning_ip (s : State) : (s.clearRunning).ip = s.ip := rfl
@[simp] theorem State.clearRunning_z (s : State) : (s.clearRunning).z = s.z := rfl
@[simp] theorem State.clearRunning_sp (s : State) : (s.clearRunning).sp = s.sp := rfl
@[simp] theorem State.clearRunning_stack (s : State) : (s.clearRunning).stack = s.stack := rfl
@[simp] theorem State.clearRunning_mem (s : State) : (s.clearRunning).mem = s.mem := rfl
@[simp] theorem State.clearRunning_running (s : State) : (s.clearRunning).running = false := rfl
@[simp] theorem State.clearRunning_phase (s : State) : (s.clearRunning).phase = s.phase := rfl
@[simp] theorem State.clearRunning_fault (s : State) : (s.clearRunning).fault = s.fault := rfl
@[simp] theorem State.clearRunning_icount (s : State) : (s.clearRunning).icount = s.icount := rfl
@[simp] theorem State.clearRunning_cap (s : State) : (s.clearRunning).cap = s.cap := rfl
@[simp] theorem State.clearRunning_outCh (s : State) : (s.clearRunning).outCh = s.outCh := rfl
@[simp] theorem State.clearRunning_hostCh (s : State) : (s.clearRunning).hostCh = s.hostCh := rfl
@[simp] theorem State.clearRunning_diagCh (s : State) : (s.clearRunning).diagCh = s.diagCh := rfl
@[simp] theorem State.clearRunning_panicCh (s : State) : (s.clearRunning).panicCh = s.panicCh := rfl
@[simp] theorem State.clearRunning_fuzzSafe (s : State) : (s.clearRunning).fuzzSafe = s.fuzzSafe := rfl
@[simp] theorem State.clearRunning_draws (s : State) : (s.clearRunning).draws = s.draws := rfl
@[simp] theorem State.clearRunning_pending (s : State) : (s.clearRunning).pending = s.pending := rfl
@[simp] theorem State.clearRunning_replies (s : State) : (s.clearRunning).replies = s.replies := rfl
@[simp] theorem State.clearRunning_reg (s : State) (j : Reg) : (s.clearRunning).reg j = s.reg j := rfl
@[simp] theorem State.clearRunning_slot (s : State) (k : Fin (Config.stackSlots + 1)) : (s.clearRunning).slot k = s.slot k := rfl

/-! ### setMem -/

@[simp] theorem State.setMem_regs (s : State) (m : Memory) : (s.setMem m).regs = s.regs := rfl
@[simp] theorem State.setMem_ip (s : State) (m : Memory) : (s.setMem m).ip = s.ip := rfl
@[simp] theorem State.setMem_z (s : State) (m : Memory) : (s.setMem m).z = s.z := rfl
@[simp] theorem State.setMem_sp (s : State) (m : Memory) : (s.setMem m).sp = s.sp := rfl
@[simp] theorem State.setMem_stack (s : State) (m : Memory) : (s.setMem m).stack = s.stack := rfl
@[simp] theorem State.setMem_mem (s : State) (m : Memory) : (s.setMem m).mem = m := rfl
@[simp] theorem State.setMem_running (s : State) (m : Memory) : (s.setMem m).running = s.running := rfl
@[simp] theorem State.setMem_phase (s : State) (m : Memory) : (s.setMem m).phase = s.phase := rfl
@[simp] theorem State.setMem_fault (s : State) (m : Memory) : (s.setMem m).fault = s.fault := rfl
@[simp] theorem State.setMem_icount (s : State) (m : Memory) : (s.setMem m).icount = s.icount := rfl
@[simp] theorem State.setMem_cap (s : State) (m : Memory) : (s.setMem m).cap = s.cap := rfl
@[simp] theorem State.setMem_outCh (s : State) (m : Memory) : (s.setMem m).outCh = s.outCh := rfl
@[simp] theorem State.setMem_hostCh (s : State) (m : Memory) : (s.setMem m).hostCh = s.hostCh := rfl
@[simp] theorem State.setMem_diagCh (s : State) (m : Memory) : (s.setMem m).diagCh = s.diagCh := rfl
@[simp] theorem State.setMem_panicCh (s : State) (m : Memory) : (s.setMem m).panicCh = s.panicCh := rfl
@[simp] theorem State.setMem_fuzzSafe (s : State) (m : Memory) : (s.setMem m).fuzzSafe = s.fuzzSafe := rfl
@[simp] theorem State.setMem_draws (s : State) (m : Memory) : (s.setMem m).draws = s.draws := rfl
@[simp] theorem State.setMem_pending (s : State) (m : Memory) : (s.setMem m).pending = s.pending := rfl
@[simp] theorem State.setMem_replies (s : State) (m : Memory) : (s.setMem m).replies = s.replies := rfl
@[simp] theorem State.setMem_reg (s : State) (m : Memory) (j : Reg) : (s.setMem m).reg j = s.reg j := rfl
@[simp] theorem State.setMem_slot (s : State) (m : Memory) (k : Fin (Config.stackSlots + 1)) : (s.setMem m).slot k = s.slot k := rfl

/-! ### pushed -/

@[simp] theorem State.pushed_regs (s : State) (v : Number) (h : s.sp.val < Config.stackSlots) : (s.pushed v h).regs = s.regs := rfl
@[simp] theorem State.pushed_ip (s : State) (v : Number) (h : s.sp.val < Config.stackSlots) : (s.pushed v h).ip = s.ip := rfl
@[simp] theorem State.pushed_z (s : State) (v : Number) (h : s.sp.val < Config.stackSlots) : (s.pushed v h).z = s.z := rfl
@[simp] theorem State.pushed_sp (s : State) (v : Number) (h : s.sp.val < Config.stackSlots) : (s.pushed v h).sp = ⟨s.sp.val + 1, Nat.succ_lt_succ h⟩ := rfl
@[simp] theorem State.pushed_stack (s : State) (v : Number) (h : s.sp.val < Config.stackSlots) : (s.pushed v h).stack = s.stack.set s.sp.val v := rfl
@[simp] theorem State.pushed_mem (s : State) (v : Number) (h : s.sp.val < Config.stackSlots) : (s.pushed v h).mem = s.mem := rfl
@[simp] theorem State.pushed_running (s : State) (v : Number) (h : s.sp.val < Config.stackSlots) : (s.pushed v h).running = s.running := rfl
@[simp] theorem State.pushed_phase (s : State) (v : Number) (h : s.sp.val < Config.stackSlots) : (s.pushed v h).phase = s.phase := rfl
@[simp] theorem State.pushed_fault (s : State) (v : Number) (h : s.sp.val < Config.stackSlots) : (s.pushed v h).fault = s.fault := rfl
@[simp] theorem State.pushed_icount (s : State) (v : Number) (h : s.sp.val < Config.stackSlots) : (s.pushed v h).icount = s.icount := rfl
@[simp] theorem State.pushed_cap (s : State) (v : Number) (h : s.sp.val < Config.stackSlots) : (s.pushed v h).cap = s.cap := rfl
@[simp] theorem State.pushed_outCh (s : State) (v : Number) (h : s.sp.val < Config.stackSlots) : (s.pushed v h).outCh = s.outCh := rfl
@[simp] theorem State.pushed_hostCh (s : State) (v : Number) (h : s.sp.val < Config.stackSlots) : (s.pushed v h).hostCh = s.hostCh := rfl
@[simp] theorem State.pushed_diagCh (s : State) (v : Number) (h : s.sp.val < Config.stackSlots) : (s.pushed v h).diagCh = s.diagCh := rfl
@[simp] theorem State.pushed_panicCh (s : State) (v : Number) (h : s.sp.val < Config.stackSlots) : (s.pushed v h).panicCh = s.panicCh := rfl
@[simp] theorem State.pushed_fuzzSafe (s : State) (v : Number) (h : s.sp.val < Config.stackSlots) : (s.pushed v h).fuzzSafe = s.fuzzSafe := rfl
@[simp] theorem State.pushed_draws (s : State) (v : Number) (h : s.sp.val < Config.stackSlots) : (s.pushed v h).draws = s.draws := rfl
@[simp] theorem State.pushed_pending (s : State) (v : Number) (h : s.sp.val < Config.stackSlots) : (s.pushed v h).pending = s.pending := rfl
@[simp] theorem State.pushed_replies (s : State) (v : Number) (h : s.sp.val < Config.stackSlots) : (s.pushed v h).replies = s.replies := rfl
@[simp] theorem State.pushed_reg (s : State) (v : Number) (h : s.sp.val < Config.stackSlots) (j : Reg) : (s.pushed v h).reg j = s.reg j := rfl

/-! ### popped -/

@[simp] theorem State.popped_regs (s : State) : (s.popped).regs = s.regs := rfl
@[simp] theorem State.popped_ip (s : State) : (s.popped).ip = s.ip := rfl
@[simp] theorem State.popped_z (s : State) : (s.popped).z = s.z := rfl
@[simp] theorem State.popped_sp (s : State) : (s.popped).sp = ⟨s.sp.val - 1, Nat.lt_of_le_of_lt (Nat.sub_le _ _) s.sp.isLt⟩ := rfl
@[simp] theorem State.popped_stack (s : State) : (s.popped).stack = s.stack := rfl
@[simp] theorem State.popped_mem (s : State) : (s.popped).mem = s.mem := rfl
@[simp] theorem State.popped_running (s : State) : (s.popped).running = s.running := rfl
@[simp] theorem State.popped_phase (s : State) : (s.popped).phase = s.phase := rfl
@[simp] theorem State.popped_fault (s : State) : (s.popped).fault = s.fault := rfl
@[simp] theorem State.popped_icount (s : State) : (s.popped).icount = s.icount := rfl
@[simp] theorem State.popped_cap (s : State) : (s.popped).cap = s.cap := rfl
@[simp] theorem State.popped_outCh (s : State) : (s.popped).outCh = s.outCh := rfl
@[simp] theorem State.popped_hostCh (s : State) : (s.popped).hostCh = s.hostCh := rfl
@[simp] theorem State.popped_diagCh (s : State) : (s.popped).diagCh = s.diagCh := rfl
@[simp] theorem State.popped_panicCh (s : State) : (s.popped).panicCh = s.panicCh := rfl
@[simp] theorem State.popped_fuzzSafe (s : State) : (s.popped).fuzzSafe = s.fuzzSafe := rfl
@[simp] theorem State.popped_draws (s : State) : (s.popped).draws = s.draws := rfl
@[simp] theorem State.popped_pending (s : State) : (s.popped).pending = s.pending := rfl
@[simp] theorem State.popped_replies (s : State) : (s.popped).replies = s.replies := rfl
@[simp] theorem State.popped_reg (s : State) (j : Reg) : (s.popped).reg j = s.reg j := rfl
@[simp] theorem State.popped_slot (s : State) (k : Fin (Config.stackSlots + 1)) : (s.popped).slot k = s.slot k := rfl

/-! ### emitOut -/

@[simp] theorem State.emitOut_regs (s : State) (r : OutRecord) : (s.emitOut r).regs = s.regs := rfl
@[simp] theorem State.emitOut_ip (s : State) (r : OutRecord) : (s.emitOut r).ip = s.ip := rfl
@[simp] theorem State.emitOut_z (s : State) (r : OutRecord) : (s.emitOut r).z = s.z := rfl
@[simp] theorem State.emitOut_sp (s : State) (r : OutRecord) : (s.emitOut r).sp = s.sp := rfl
@[simp] theorem State.emitOut_stack (s : State) (r : OutRecord) : (s.emitOut r).stack = s.stack := rfl
@[simp] theorem State.emitOut_mem (s : State) (r : OutRecord) : (s.emitOut r).mem = s.mem := rfl
@[simp] theorem State.emitOut_running (s : State) (r : OutRecord) : (s.emitOut r).running = s.running := rfl
@[simp] theorem State.emitOut_phase (s : State) (r : OutRecord) : (s.emitOut r).phase = s.phase := rfl
@[simp] theorem State.emitOut_fault (s : State) (r : OutRecord) : (s.emitOut r).fault = s.fault := rfl
@[simp] theorem State.emitOut_icount (s : State) (r : OutRecord) : (s.emitOut r).icount = s.icount := rfl
@[simp] theorem State.emitOut_cap (s : State) (r : OutRecord) : (s.emitOut r).cap = s.cap := rfl
@[simp] theorem State.emitOut_outCh (s : State) (r : OutRecord) : (s.emitOut r).outCh = s.outCh ++ [r] := rfl
@[simp] theorem State.emitOut_hostCh (s : State) (r : OutRecord) : (s.emitOut r).hostCh = s.hostCh := rfl
@[simp] theorem State.emitOut_diagCh (s : State) (r : OutRecord) : (s.emitOut r).diagCh = s.diagCh := rfl
@[simp] theorem State.emitOut_panicCh (s : State) (r : OutRecord) : (s.emitOut r).panicCh = s.panicCh := rfl
@[simp] theorem State.emitOut_fuzzSafe (s : State) (r : OutRecord) : (s.emitOut r).fuzzSafe = s.fuzzSafe := rfl
@[simp] theorem State.emitOut_draws (s : State) (r : OutRecord) : (s.emitOut r).draws = s.draws := rfl
@[simp] theorem State.emitOut_pending (s : State) (r : OutRecord) : (s.emitOut r).pending = s.pending := rfl
@[simp] theorem State.emitOut_replies (s : State) (r : OutRecord) : (s.emitOut r).replies = s.replies := rfl
@[simp] theorem State.emitOut_reg (s : State) (r : OutRecord) (j : Reg) : (s.emitOut r).reg j = s.reg j := rfl
@[simp] theorem State.emitOut_slot (s : State) (r : OutRecord) (k : Fin (Config.stackSlots + 1)) : (s.emitOut r).slot k = s.slot k := rfl

/-! ### emitHost -/

@[simp] theorem State.emitHost_regs (s : State) (r : HostRecord) : (s.emitHost r).regs = s.regs := rfl
@[simp] theorem State.emitHost_ip (s : State) (r : HostRecord) : (s.emitHost r).ip = s.ip := rfl
@[simp] theorem State.emitHost_z (s : State) (r : HostRecord) : (s.emitHost r).z = s.z := rfl
@[simp] theorem State.emitHost_sp (s : State) (r : HostRecord) : (s.emitHost r).sp = s.sp := rfl
@[simp] theorem State.emitHost_stack (s : State) (r : HostRecord) : (s.emitHost r).stack = s.stack := rfl
@[simp] theorem State.emitHost_mem (s : State) (r : HostRecord) : (s.emitHost r).mem = s.mem := rfl
@[simp] theorem State.emitHost_running (s : State) (r : HostRecord) : (s.emitHost r).running = s.running := rfl
@[simp] theorem State.emitHost_phase (s : State) (r : HostRecord) : (s.emitHost r).phase = s.phase := rfl
@[simp] theorem State.emitHost_fault (s : State) (r : HostRecord) : (s.emitHost r).fault = s.fault := rfl
@[simp] theorem State.emitHost_icount (s : State) (r : HostRecord) : (s.emitHost r).icount = s.icount := rfl
@[simp] theorem State.emitHost_cap (s : State) (r : HostRecord) : (s.emitHost r).cap = s.cap := rfl
@[simp] theorem State.emitHost_outCh (s : State) (r : HostRecord) : (s.emitHost r).outCh = s.outCh := rfl
@[simp] theorem State.emitHost_hostCh (s : State) (r : HostRecord) : (s.emitHost r).hostCh = s.hostCh ++ [r] := rfl
@[simp] theorem State.emitHost_diagCh (s : State) (r : HostRecord) : (s.emitHost r).diagCh = s.diagCh := rfl
@[simp] theorem State.emitHost_panicCh (s : State) (r : HostRecord) : (s.emitHost r).panicCh = s.panicCh := rfl
@[simp] theorem State.emitHost_fuzzSafe (s : State) (r : HostRecord) : (s.emitHost r).fuzzSafe = s.fuzzSafe := rfl
@[simp] theorem State.emitHost_draws (s : State) (r : HostRecord) : (s.emitHost r).draws = s.draws := rfl
@[simp] theorem State.emitHost_pending (s : State) (r : HostRecord) : (s.emitHost r).pending = s.pending := rfl
@[simp] theorem State.emitHost_replies (s : State) (r : HostRecord) : (s.emitHost r).replies = s.replies := rfl
@[simp] theorem State.emitHost_reg (s : State) (r : HostRecord) (j : Reg) : (s.emitHost r).reg j = s.reg j := rfl
@[simp] theorem State.emitHost_slot (s : State) (r : HostRecord) (k : Fin (Config.stackSlots + 1)) : (s.emitHost r).slot k = s.slot k := rfl

/-! ### emitDiag -/

@[simp] theorem State.emitDiag_regs (s : State) (r : DiagRecord) : (s.emitDiag r).regs = s.regs := rfl
@[simp] theorem State.emitDiag_ip (s : State) (r : DiagRecord) : (s.emitDiag r).ip = s.ip := rfl
@[simp] theorem State.emitDiag_z (s : State) (r : DiagRecord) : (s.emitDiag r).z = s.z := rfl
@[simp] theorem State.emitDiag_sp (s : State) (r : DiagRecord) : (s.emitDiag r).sp = s.sp := rfl
@[simp] theorem State.emitDiag_stack (s : State) (r : DiagRecord) : (s.emitDiag r).stack = s.stack := rfl
@[simp] theorem State.emitDiag_mem (s : State) (r : DiagRecord) : (s.emitDiag r).mem = s.mem := rfl
@[simp] theorem State.emitDiag_running (s : State) (r : DiagRecord) : (s.emitDiag r).running = s.running := rfl
@[simp] theorem State.emitDiag_phase (s : State) (r : DiagRecord) : (s.emitDiag r).phase = s.phase := rfl
@[simp] theorem State.emitDiag_fault (s : State) (r : DiagRecord) : (s.emitDiag r).fault = s.fault := rfl
@[simp] theorem State.emitDiag_icount (s : State) (r : DiagRecord) : (s.emitDiag r).icount = s.icount := rfl
@[simp] theorem State.emitDiag_cap (s : State) (r : DiagRecord) : (s.emitDiag r).cap = s.cap := rfl
@[simp] theorem State.emitDiag_outCh (s : State) (r : DiagRecord) : (s.emitDiag r).outCh = s.outCh := rfl
@[simp] theorem State.emitDiag_hostCh (s : State) (r : DiagRecord) : (s.emitDiag r).hostCh = s.hostCh := rfl
@[simp] theorem State.emitDiag_diagCh (s : State) (r : DiagRecord) : (s.emitDiag r).diagCh = s.diagCh ++ [r] := rfl
@[simp] theorem State.emitDiag_panicCh (s : State) (r : DiagRecord) : (s.emitDiag r).panicCh = s.panicCh := rfl
@[simp] theorem State.emitDiag_fuzzSafe (s : State) (r : DiagRecord) : (s.emitDiag r).fuzzSafe = s.fuzzSafe := rfl
@[simp] theorem State.emitDiag_draws (s : State) (r : DiagRecord) : (s.emitDiag r).draws = s.draws := rfl
@[simp] theorem State.emitDiag_pending (s : State) (r : DiagRecord) : (s.emitDiag r).pending = s.pending := rfl
@[simp] theorem State.emitDiag_replies (s : State) (r : DiagRecord) : (s.emitDiag r).replies = s.replies := rfl
@[simp] theorem State.emitDiag_reg (s : State) (r : DiagRecord) (j : Reg) : (s.emitDiag r).reg j = s.reg j := rfl
@[simp] theorem State.emitDiag_slot (s : State) (r : DiagRecord) (k : Fin (Config.stackSlots + 1)) : (s.emitDiag r).slot k = s.slot k := rfl

/-! ### drawn -/

@[simp] theorem State.drawn_regs (s : State) : (s.drawn).regs = s.regs := rfl
@[simp] theorem State.drawn_ip (s : State) : (s.drawn).ip = s.ip := rfl
@[simp] theorem State.drawn_z (s : State) : (s.drawn).z = s.z := rfl
@[simp] theorem State.drawn_sp (s : State) : (s.drawn).sp = s.sp := rfl
@[simp] theorem State.drawn_stack (s : State) : (s.drawn).stack = s.stack := rfl
@[simp] theorem State.drawn_mem (s : State) : (s.drawn).mem = s.mem := rfl
@[simp] theorem State.drawn_running (s : State) : (s.drawn).running = s.running := rfl
@[simp] theorem State.drawn_phase (s : State) : (s.drawn).phase = s.phase := rfl
@[simp] theorem State.drawn_fault (s : State) : (s.drawn).fault = s.fault := rfl
@[simp] theorem State.drawn_icount (s : State) : (s.drawn).icount = s.icount := rfl
@[simp] theorem State.drawn_cap (s : State) : (s.drawn).cap = s.cap := rfl
@[simp] theorem State.drawn_outCh (s : State) : (s.drawn).outCh = s.outCh := rfl
@[simp] theorem State.drawn_hostCh (s : State) : (s.drawn).hostCh = s.hostCh := rfl
@[simp] theorem State.drawn_diagCh (s : State) : (s.drawn).diagCh = s.diagCh := rfl
@[simp] theorem State.drawn_panicCh (s : State) : (s.drawn).panicCh = s.panicCh := rfl
@[simp] theorem State.drawn_fuzzSafe (s : State) : (s.drawn).fuzzSafe = s.fuzzSafe := rfl
@[simp] theorem State.drawn_draws (s : State) : (s.drawn).draws = s.draws + 1 := rfl
@[simp] theorem State.drawn_pending (s : State) : (s.drawn).pending = s.pending := rfl
@[simp] theorem State.drawn_replies (s : State) : (s.drawn).replies = s.replies := rfl
@[simp] theorem State.drawn_reg (s : State) (j : Reg) : (s.drawn).reg j = s.reg j := rfl
@[simp] theorem State.drawn_slot (s : State) (k : Fin (Config.stackSlots + 1)) : (s.drawn).slot k = s.slot k := rfl

/-! ### takePanic -/

@[simp] theorem State.takePanic_regs (s : State) (p : Panic) : (s.takePanic p).regs = s.regs := rfl
@[simp] theorem State.takePanic_ip (s : State) (p : Panic) : (s.takePanic p).ip = s.ip := rfl
@[simp] theorem State.takePanic_z (s : State) (p : Panic) : (s.takePanic p).z = s.z := rfl
@[simp] theorem State.takePanic_sp (s : State) (p : Panic) : (s.takePanic p).sp = s.sp := rfl
@[simp] theorem State.takePanic_stack (s : State) (p : Panic) : (s.takePanic p).stack = s.stack := rfl
@[simp] theorem State.takePanic_mem (s : State) (p : Panic) : (s.takePanic p).mem = s.mem := rfl
@[simp] theorem State.takePanic_running (s : State) (p : Panic) : (s.takePanic p).running = false := rfl
@[simp] theorem State.takePanic_phase (s : State) (p : Panic) : (s.takePanic p).phase = .panicked := rfl
@[simp] theorem State.takePanic_fault (s : State) (p : Panic) : (s.takePanic p).fault = some p := rfl
@[simp] theorem State.takePanic_icount (s : State) (p : Panic) : (s.takePanic p).icount = s.icount := rfl
@[simp] theorem State.takePanic_cap (s : State) (p : Panic) : (s.takePanic p).cap = s.cap := rfl
@[simp] theorem State.takePanic_outCh (s : State) (p : Panic) : (s.takePanic p).outCh = s.outCh := rfl
@[simp] theorem State.takePanic_hostCh (s : State) (p : Panic) : (s.takePanic p).hostCh = s.hostCh := rfl
@[simp] theorem State.takePanic_diagCh (s : State) (p : Panic) : (s.takePanic p).diagCh = s.diagCh := rfl
@[simp] theorem State.takePanic_panicCh (s : State) (p : Panic) : (s.takePanic p).panicCh = s.panicCh ++ [p] := rfl
@[simp] theorem State.takePanic_fuzzSafe (s : State) (p : Panic) : (s.takePanic p).fuzzSafe = s.fuzzSafe := rfl
@[simp] theorem State.takePanic_draws (s : State) (p : Panic) : (s.takePanic p).draws = s.draws := rfl
@[simp] theorem State.takePanic_pending (s : State) (p : Panic) : (s.takePanic p).pending = s.pending := rfl
@[simp] theorem State.takePanic_replies (s : State) (p : Panic) : (s.takePanic p).replies = s.replies := rfl
@[simp] theorem State.takePanic_reg (s : State) (p : Panic) (j : Reg) : (s.takePanic p).reg j = s.reg j := rfl
@[simp] theorem State.takePanic_slot (s : State) (p : Panic) (k : Fin (Config.stackSlots + 1)) : (s.takePanic p).slot k = s.slot k := rfl

/-! ### The loop and the host commands -/

@[simp] theorem State.counted_regs (s : State) : s.counted.regs = s.regs := rfl
@[simp] theorem State.counted_ip (s : State) : s.counted.ip = s.ip := rfl
@[simp] theorem State.counted_z (s : State) : s.counted.z = s.z := rfl
@[simp] theorem State.counted_sp (s : State) : s.counted.sp = s.sp := rfl
@[simp] theorem State.counted_stack (s : State) : s.counted.stack = s.stack := rfl
@[simp] theorem State.counted_mem (s : State) : s.counted.mem = s.mem := rfl
@[simp] theorem State.counted_running (s : State) : s.counted.running = (s.running && !decide (0 < s.cap ∧ s.cap ≤ (s.icount + 1 : Nat))) := rfl
@[simp] theorem State.counted_phase (s : State) : s.counted.phase = s.phase := rfl
@[simp] theorem State.counted_fault (s : State) : s.counted.fault = s.fault := rfl
@[simp] theorem State.counted_icount (s : State) : s.counted.icount = s.icount + 1 := rfl
@[simp] theorem State.counted_cap (s : State) : s.counted.cap = s.cap := rfl
@[simp] theorem State.counted_outCh (s : State) : s.counted.outCh = s.outCh := rfl
@[simp] theorem State.counted_hostCh (s : State) : s.counted.hostCh = s.hostCh := rfl
@[simp] theorem State.counted_diagCh (s : State) : s.counted.diagCh = s.diagCh := rfl
@[simp] theorem State.counted_panicCh (s : State) : s.counted.panicCh = s.panicCh := rfl
@[simp] theorem State.counted_fuzzSafe (s : State) : s.counted.fuzzSafe = s.fuzzSafe := rfl
@[simp] theorem State.counted_draws (s : State) : s.counted.draws = s.draws := rfl
@[simp] theorem State.counted_pending (s : State) : s.counted.pending = s.pending := rfl
@[simp] theorem State.counted_replies (s : State) : s.counted.replies = s.replies := rfl

@[simp] theorem State.startRun_regs (cap : Int) (s : State) : (s.startRun cap).regs = s.regs := rfl
@[simp] theorem State.startRun_ip (cap : Int) (s : State) : (s.startRun cap).ip = 0 := rfl
@[simp] theorem State.startRun_z (cap : Int) (s : State) : (s.startRun cap).z = s.z := rfl
@[simp] theorem State.startRun_sp (cap : Int) (s : State) : (s.startRun cap).sp = s.sp := rfl
@[simp] theorem State.startRun_stack (cap : Int) (s : State) : (s.startRun cap).stack = s.stack := rfl
@[simp] theorem State.startRun_mem (cap : Int) (s : State) : (s.startRun cap).mem = s.mem := rfl
@[simp] theorem State.startRun_running (cap : Int) (s : State) : (s.startRun cap).running = true := rfl
@[simp] theorem State.startRun_phase (cap : Int) (s : State) : (s.startRun cap).phase = .executing := rfl
@[simp] theorem State.startRun_fault (cap : Int) (s : State) : (s.startRun cap).fault = s.fault := rfl
@[simp] theorem State.startRun_icount (cap : Int) (s : State) : (s.startRun cap).icount = 0 := rfl
@[simp] theorem State.startRun_cap (cap : Int) (s : State) : (s.startRun cap).cap = cap := rfl
@[simp] theorem State.startRun_outCh (cap : Int) (s : State) : (s.startRun cap).outCh = s.outCh := rfl
@[simp] theorem State.startRun_hostCh (cap : Int) (s : State) : (s.startRun cap).hostCh = s.hostCh := rfl
@[simp] theorem State.startRun_diagCh (cap : Int) (s : State) : (s.startRun cap).diagCh = s.diagCh := rfl
@[simp] theorem State.startRun_panicCh (cap : Int) (s : State) : (s.startRun cap).panicCh = s.panicCh := rfl
@[simp] theorem State.startRun_fuzzSafe (cap : Int) (s : State) : (s.startRun cap).fuzzSafe = s.fuzzSafe := rfl
@[simp] theorem State.startRun_draws (cap : Int) (s : State) : (s.startRun cap).draws = s.draws := rfl
@[simp] theorem State.startRun_pending (cap : Int) (s : State) : (s.startRun cap).pending = s.pending := rfl
@[simp] theorem State.startRun_replies (cap : Int) (s : State) : (s.startRun cap).replies = s.replies := rfl

@[simp] theorem State.keepWorld_regs (fresh s : State) : (State.keepWorld fresh s).regs = fresh.regs := rfl
@[simp] theorem State.keepWorld_ip (fresh s : State) : (State.keepWorld fresh s).ip = fresh.ip := rfl
@[simp] theorem State.keepWorld_z (fresh s : State) : (State.keepWorld fresh s).z = fresh.z := rfl
@[simp] theorem State.keepWorld_sp (fresh s : State) : (State.keepWorld fresh s).sp = fresh.sp := rfl
@[simp] theorem State.keepWorld_stack (fresh s : State) : (State.keepWorld fresh s).stack = fresh.stack := rfl
@[simp] theorem State.keepWorld_mem (fresh s : State) : (State.keepWorld fresh s).mem = fresh.mem := rfl
@[simp] theorem State.keepWorld_running (fresh s : State) : (State.keepWorld fresh s).running = fresh.running := rfl
@[simp] theorem State.keepWorld_phase (fresh s : State) : (State.keepWorld fresh s).phase = fresh.phase := rfl
@[simp] theorem State.keepWorld_fault (fresh s : State) : (State.keepWorld fresh s).fault = fresh.fault := rfl
@[simp] theorem State.keepWorld_icount (fresh s : State) : (State.keepWorld fresh s).icount = fresh.icount := rfl
@[simp] theorem State.keepWorld_cap (fresh s : State) : (State.keepWorld fresh s).cap = fresh.cap := rfl
@[simp] theorem State.keepWorld_outCh (fresh s : State) : (State.keepWorld fresh s).outCh = fresh.outCh := rfl
@[simp] theorem State.keepWorld_hostCh (fresh s : State) : (State.keepWorld fresh s).hostCh = fresh.hostCh := rfl
@[simp] theorem State.keepWorld_diagCh (fresh s : State) : (State.keepWorld fresh s).diagCh = fresh.diagCh := rfl
@[simp] theorem State.keepWorld_panicCh (fresh s : State) : (State.keepWorld fresh s).panicCh = fresh.panicCh := rfl
@[simp] theorem State.keepWorld_fuzzSafe (fresh s : State) : (State.keepWorld fresh s).fuzzSafe = fresh.fuzzSafe := rfl
@[simp] theorem State.keepWorld_draws (fresh s : State) : (State.keepWorld fresh s).draws = s.draws := rfl
@[simp] theorem State.keepWorld_pending (fresh s : State) : (State.keepWorld fresh s).pending = s.pending := rfl
@[simp] theorem State.keepWorld_replies (fresh s : State) : (State.keepWorld fresh s).replies = s.replies := rfl

@[simp] theorem State.loopTest_regs (s : State) : s.loopTest.regs = s.regs := by unfold State.loopTest; split <;> rfl
@[simp] theorem State.loopTest_ip (s : State) : s.loopTest.ip = s.ip := by unfold State.loopTest; split <;> rfl
@[simp] theorem State.loopTest_z (s : State) : s.loopTest.z = s.z := by unfold State.loopTest; split <;> rfl
@[simp] theorem State.loopTest_sp (s : State) : s.loopTest.sp = s.sp := by unfold State.loopTest; split <;> rfl
@[simp] theorem State.loopTest_stack (s : State) : s.loopTest.stack = s.stack := by unfold State.loopTest; split <;> rfl
@[simp] theorem State.loopTest_mem (s : State) : s.loopTest.mem = s.mem := by unfold State.loopTest; split <;> rfl
@[simp] theorem State.loopTest_running (s : State) : s.loopTest.running = s.running := by unfold State.loopTest; split <;> rfl
@[simp] theorem State.loopTest_fault (s : State) : s.loopTest.fault = s.fault := by unfold State.loopTest; split <;> rfl
@[simp] theorem State.loopTest_icount (s : State) : s.loopTest.icount = s.icount := by unfold State.loopTest; split <;> rfl
@[simp] theorem State.loopTest_cap (s : State) : s.loopTest.cap = s.cap := by unfold State.loopTest; split <;> rfl
@[simp] theorem State.loopTest_outCh (s : State) : s.loopTest.outCh = s.outCh := by unfold State.loopTest; split <;> rfl
@[simp] theorem State.loopTest_hostCh (s : State) : s.loopTest.hostCh = s.hostCh := by unfold State.loopTest; split <;> rfl
@[simp] theorem State.loopTest_diagCh (s : State) : s.loopTest.diagCh = s.diagCh := by unfold State.loopTest; split <;> rfl
@[simp] theorem State.loopTest_panicCh (s : State) : s.loopTest.panicCh = s.panicCh := by unfold State.loopTest; split <;> rfl
@[simp] theorem State.loopTest_fuzzSafe (s : State) : s.loopTest.fuzzSafe = s.fuzzSafe := by unfold State.loopTest; split <;> rfl
@[simp] theorem State.loopTest_draws (s : State) : s.loopTest.draws = s.draws := by unfold State.loopTest; split <;> rfl
@[simp] theorem State.loopTest_pending (s : State) : s.loopTest.pending = s.pending := by unfold State.loopTest; split <;> rfl
@[simp] theorem State.loopTest_replies (s : State) : s.loopTest.replies = s.replies := by unfold State.loopTest; split <;> rfl

theorem State.loopTest_phase (s : State) : s.loopTest.phase = if s.running then s.phase else .stopped := by
  unfold State.loopTest; split <;> rfl

/-! ### Registers and slots -/

@[simp] theorem State.setReg_reg (s : State) (i j : Reg) (v : Value) :
    (s.setReg i v).reg j = if i = j then v else s.reg j := by
  simp only [State.reg, State.setReg, Fin.getElem_fin, Vector.getElem_set, Fin.ext_iff]

@[simp] theorem State.reset_reg (i : Reg) : State.reset.reg i = .number 0 := by
  simp [State.reg, State.reset]

theorem State.pushed_slot_top (s : State) (v : Number) (h : s.sp.val < Config.stackSlots) :
    (s.pushed v h).slot (s.pushed v h).sp = v := by
  simp [State.slot, State.pushed]

/-- A push leaves the occupied slots alone. -/
theorem State.pushed_slot_below (s : State) (v : Number) (h : s.sp.val < Config.stackSlots)
    (k : Fin (Config.stackSlots + 1)) (hk : k.val ≤ s.sp.val) (h0 : k.val ≠ 0) :
    (s.pushed v h).slot k = s.slot k := by
  simp only [State.slot, State.pushed]
  rw [Vector.getElem_set_ne]
  omega

end Sys2Proof.Machine
end

