-- ==== Sys2Proof/Laws/Exec.lean ====
section
/-! SUPPORT. What every meaning can do, said once: it either raises a panic that the tables of 60 R200 and R201 give
it, which changes nothing else, or ends in the state its rule gives. One combinator per operand form, then one
inversion lemma per instruction; every frame and invariant follows from these without unfolding a meaning. -/

namespace Sys2Proof.Machine

/-- The meaning of `i` answers a next state: the panic state of a panic that `i` may raise, or a state with `P`. -/
def Ends (i : Instr) (P : State → Prop) (s : State) (r : Result) : Prop :=
  (∃ p : Panic, MayRaise i s p.cause p.info ∧ r = .next (s.takePanic p)) ∨ ∃ t, P t ∧ r = .next t

section
variable {i : Instr} {P : State → Prop} {s : State} {r : Result}

theorem Ends.mono {P' : State → Prop} (hP : ∀ t, P t → P' t) : Ends i P s r → Ends i P' s r
  | .inl h => .inl h
  | .inr ⟨t, ht, hr⟩ => .inr ⟨t, hP t ht, hr⟩

/-- A meaning that ends answers a next state. -/
theorem Ends.next : Ends i P s r → ∃ t, r = .next t
  | .inl ⟨_, _, hr⟩ => ⟨_, hr⟩
  | .inr ⟨t, _, hr⟩ => ⟨t, hr⟩

/-- What is known of the next state of a meaning that ends. -/
theorem Ends.of_next {t : State} :
    Ends i P s (.next t) → (∃ p : Panic, MayRaise i s p.cause p.info ∧ t = s.takePanic p) ∨ P t
  | .inl ⟨p, hp, hr⟩ => .inl ⟨p, hp, by cases hr; rfl⟩
  | .inr ⟨t', ht, hr⟩ => .inr (by cases hr; exact ht)

theorem ends_next {t : State} (h : P t) : Ends i P s (.next t) := .inr ⟨t, h, rfl⟩

theorem ends_raise {c : Cause} {info : Int} (h : MayRaise i s c info) : Ends i P s (raise s c info) :=
  .inl ⟨⟨c, info⟩, h, rfl⟩

/-! ### The operand forms. Each asks that the tables of `i` list what it checks. -/

theorem ends_withReg {b : Byte} {k : Reg → Result} (hk : ∀ r : Reg, b = regByte r → Ends i P s (k r))
    (hi : .badRegister ∈ causesOf i ∧ b ∈ registerOperands i := by simp [causesOf, registerOperands]) :
    Ends i P s (withReg b s k) := by
  rcases byte_cases b with ⟨r, hr⟩ | hb
  · rw [hr, withReg_reg]
    exact hk r hr
  · rw [withReg_of_bad hb]
    exact ends_raise ⟨hi.1, b, hi.2, hb, rfl⟩

theorem ends_withNum {b : Byte} {x : Reg} {k : Number → Result} (hx : b = regByte x)
    (hk : ∀ n, s.reg x = .number n → Ends i P s (k n))
    (hi : .typeMismatch ∈ causesOf i ∧ b ∈ numberReads i := by simp [causesOf, numberReads]) :
    Ends i P s (withNum x s k) := by
  subst hx
  cases h : s.reg x with
  | number n => rw [withNum_number h]; exact hk n h
  | string t => rw [withNum_string h]; exact ends_raise ⟨hi.1, x, rfl, .inl ⟨hi.2, t, h⟩⟩

theorem ends_withStr {b : Byte} {x : Reg} {k : Str → Result} (hx : b = regByte x)
    (hk : ∀ t, s.reg x = .string t → Ends i P s (k t))
    (hi : .typeMismatch ∈ causesOf i ∧ b ∈ stringReads i := by simp [causesOf, stringReads]) :
    Ends i P s (withStr x s k) := by
  subst hx
  cases h : s.reg x with
  | string t => rw [withStr_string h]; exact hk t h
  | number n => rw [withStr_number h]; exact ends_raise ⟨hi.1, x, rfl, .inr ⟨hi.2, n, h⟩⟩

theorem ends_withAddress {b b' : Byte} {x : Reg} {a : Number} {k : Addr → Result} (hx : b = regByte x)
    (ha : s.reg x = .number a) (hk : ∀ addr : Addr, a.toInt = addr.toNat → Ends i P s (k addr))
    (hi : i = .peek b' b ∨ i = .poke b' b) : Ends i P s (withAddress a s k) := by
  subst hx
  by_cases h : a.toInt < 0 ∨ a.toInt > 65535
  · rw [withAddress_of_outside h]
    exact ends_raise ⟨by rcases hi with rfl | rfl <;> simp [causesOf], b', x, a, hi, ha, h, rfl⟩
  · have e : a.toInt = (BitVec.ofNat 16 a.toInt.toNat : Addr).toNat := by
      simp only [BitVec.toNat_ofNat]
      omega
    rw [withAddress_of_range e]
    exact hk _ e

theorem ends_withCopyAddress {b b' b3 : Byte} {x : Reg} {a : Number} {k : Nat → Result} (hx : b = regByte x)
    (ha : s.reg x = .number a) (hk : 0 ≤ a.toInt → Ends i P s (k a.toInt.toNat))
    (hi : i = .memcpy b b' b3 ∨ i = .memcpy b' b b3) : Ends i P s (withCopyAddress a s k) := by
  subst hx
  by_cases h : a.toInt < 0
  · rw [withCopyAddress_of_neg h]
    exact ends_raise ⟨by rcases hi with rfl | rfl <;> simp [causesOf], b', b3, x, a, hi, ha, h, rfl⟩
  · rw [withCopyAddress_of_nonneg (by omega)]
    exact hk (by omega)

theorem ends_withPush {v : Number} {k : State → Result}
    (hk : ∀ h : s.sp.val < Config.stackSlots, Ends i P s (k (s.pushed v h)))
    (hi : .stackOverflow ∈ causesOf i := by simp [causesOf]) : Ends i P s (withPush v s k) := by
  by_cases h : s.sp.val < Config.stackSlots
  · rw [withPush_of_room h]
    exact hk h
  · have := s.sp.isLt
    have full : s.sp.val = 1024 := by simp only [Config.stackSlots] at *; omega
    rw [withPush_of_full full]
    exact ends_raise ⟨hi, full, by simp [full]⟩

theorem ends_withPop {k : Number → State → Result}
    (hk : s.sp.val ≠ 0 → Ends i P s (k (s.slot s.sp) s.popped))
    (hi : .stackUnderflow ∈ causesOf i := by simp [causesOf]) : Ends i P s (withPop s k) := by
  by_cases h : s.sp.val = 0
  · rw [withPop_of_empty h]
    exact ends_raise ⟨hi, h, by simp [h]⟩
  · rw [withPop_of_pos h]
    exact hk h

end

/-! ### The values the meanings compute -/

/-- Z is set iff the stored number is 0 (43 R121). -/
theorem zeroFlag_eq (r : Number) : zeroFlag r = decide (r.toInt = 0) := by
  unfold zeroFlag
  congr 1
  apply propext
  constructor
  · rintro rfl
    rfl
  · intro h
    exact BitVec.eq_of_toInt_eq (by simpa using h)

/-- The test of CMP_REG is equality of variant words (45 R150). -/
theorem sameValue_eq (a b : Value) : sameValue a b = decide (a = b) := by
  cases a <;> cases b <;> simp [sameValue]

/-- The return address a call pushes is not reduced: 1 to 65536 (48 R181). -/
theorem returnAddress_toInt (ip : Addr) : (returnAddress ip).toInt = (ip.toNat + 2) % 65536 + 1 := by
  rw [returnAddress, wrapW_toInt_of_range] <;> simp <;> omega

theorem returnTarget_of_range {v : Number} {addr : Addr} (h : v.toInt = addr.toNat) : returnTarget v = addr := by
  have := addr.isLt
  rw [returnTarget, if_pos (by omega), h]
  simp

theorem returnTarget_of_outside {v : Number} (h : v.toInt < 0 ∨ 65535 < v.toInt) : returnTarget v = 0 := by
  rw [returnTarget, if_neg (by omega)]

/-! ### One inversion lemma per instruction -/

theorem execExit_ends (s : State) : Ends .exit (· = s.clearRunning.advance 1) s (execExit s) := ends_next rfl

theorem execNop_ends (s : State) : Ends .nop (· = s.advance 1) s (execNop s) := ends_next rfl

theorem execIntStore_ends (r1 : Byte) (imm : Half) (s : State) :
    Ends (.intStore r1 imm) (fun t => ∃ d : Reg, r1 = regByte d ∧
      t = (s.setReg d (.number (ofHalf imm))).advance 4) s (execIntStore r1 imm s) :=
  ends_withReg fun d hd => ends_next ⟨d, hd, rfl⟩

theorem execIntPrint_ends (r1 : Byte) (s : State) :
    Ends (.intPrint r1) (fun t => ∃ n, t = (s.emitOut (.int n)).advance 2) s (execIntPrint r1 s) :=
  ends_withReg fun _ h => ends_withNum h fun n _ => ends_next ⟨n, rfl⟩

theorem execIntTostring_ends (r1 : Byte) (s : State) :
    Ends (.intTostring r1) (fun t => ∃ (d : Reg) (v : Str), r1 = regByte d ∧
      t = (s.setReg d (.string v)).advance 2) s (execIntTostring r1 s) :=
  ends_withReg fun d hd => ends_withNum hd fun _ _ => ends_next ⟨d, _, hd, rfl⟩

theorem execIntRandom_ends (r1 : Byte) (s : State) :
    Ends (.intRandom r1) (fun t => ∃ d : Reg, r1 = regByte d ∧
      t = (s.drawn.setReg d (.number (ofHalf s.nextRandom))).advance 2) s (execIntRandom r1 s) :=
  ends_withReg fun d hd => ends_next ⟨d, hd, rfl⟩

theorem execJumpTo_ends (imm : Half) (s : State) : Ends (.jumpTo imm) (· = s.setIp imm) s (execJumpTo imm s) :=
  ends_next rfl

theorem jumpIf_ends {i : Instr} (c : Bool) (imm : Half) (s : State) :
    Ends i (fun t => t = s.setIp imm ∨ t = s.advance 3) s (jumpIf c imm s) := by
  cases c
  · exact ends_next (.inr rfl)
  · exact ends_next (.inl rfl)

theorem execJumpZ_ends (imm : Half) (s : State) :
    Ends (.jumpZ imm) (fun t => t = s.setIp imm ∨ t = s.advance 3) s (execJumpZ imm s) := jumpIf_ends _ _ _

theorem execJumpNz_ends (imm : Half) (s : State) :
    Ends (.jumpNz imm) (fun t => t = s.setIp imm ∨ t = s.advance 3) s (execJumpNz imm s) := jumpIf_ends _ _ _

/-- The end of a MATH instruction of `n` bytes whose destination byte is `r1`. -/
def MathEnd (r1 : Byte) (n : Nat) (s t : State) : Prop :=
  ∃ (d : Reg) (r : Number), r1 = regByte d ∧
    t = ((s.setReg d (.number r)).setZ (zeroFlag r)).advance n

theorem ends_threeOperands {i : Instr} {P : State → Prop} {r1 r2 r3 : Byte} {s : State}
    {k : Reg → Reg → Number → Number → Result}
    (hk : ∀ (d x2 : Reg) (a b : Number), r1 = regByte d → r3 = regByte x2 → s.reg x2 = .number b →
      Ends i P s (k d x2 a b))
    (hi : (.badRegister ∈ causesOf i ∧ .typeMismatch ∈ causesOf i) ∧ registerOperands i = [r1, r2, r3] ∧
      numberReads i = [r2, r3] := by simp [causesOf, registerOperands, numberReads]) :
    Ends i P s (threeOperands r1 r2 r3 s k) := by
  obtain ⟨⟨hb, ht⟩, ho, hn⟩ := hi
  unfold threeOperands
  exact ends_withReg (hi := ⟨hb, by simp [ho]⟩) fun d hd =>
    ends_withReg (hi := ⟨hb, by simp [ho]⟩) fun x1 h1 =>
    ends_withReg (hi := ⟨hb, by simp [ho]⟩) fun x2 h2 =>
    ends_withNum h1 (hi := ⟨ht, by simp [hn]⟩) fun a _ =>
    ends_withNum h2 (hi := ⟨ht, by simp [hn]⟩) fun b hb => hk d x2 a b hd h2 hb

theorem threeRegister_ends {i : Instr} (f : Number → Number → Number) (r1 r2 r3 : Byte) (s : State)
    (hi : (.badRegister ∈ causesOf i ∧ .typeMismatch ∈ causesOf i) ∧ registerOperands i = [r1, r2, r3] ∧
      numberReads i = [r2, r3] := by simp [causesOf, registerOperands, numberReads]) :
    Ends i (MathEnd r1 4 s) s (threeRegister f r1 r2 r3 s) :=
  ends_threeOperands (hi := hi) fun d _ _ _ hd _ _ => ends_next ⟨d, _, hd, rfl⟩

theorem oneRegister_ends {i : Instr} (f : Number → Number) (r1 : Byte) (s : State)
    (hi : (.badRegister ∈ causesOf i ∧ .typeMismatch ∈ causesOf i) ∧ registerOperands i = [r1] ∧
      numberReads i = [r1] := by simp [causesOf, registerOperands, numberReads]) :
    Ends i (MathEnd r1 2 s) s (oneRegister f r1 s) :=
  ends_withReg (hi := ⟨hi.1.1, by simp [hi.2.1]⟩) fun d hd =>
    ends_withNum hd (hi := ⟨hi.1.2, by simp [hi.2.2]⟩) fun _ _ => ends_next ⟨d, _, hd, rfl⟩

theorem execMathDiv_ends (r1 r2 r3 : Byte) (s : State) :
    Ends (.mathDiv r1 r2 r3) (MathEnd r1 4 s) s (execMathDiv r1 r2 r3 s) := by
  refine ends_threeOperands fun d x2 _ b hd hx hb => ?_
  by_cases h : b = 0
  · rw [if_pos h]
    exact ends_raise ⟨by simp [causesOf], r1, r2, x2, by rw [hx], by rw [← h]; exact hb, rfl⟩
  · rw [if_neg h]
    exact ends_next ⟨d, _, hd, rfl⟩

theorem execStringStore_ends (r1 : Byte) (lit : Str) (s : State) :
    Ends (.stringStore r1 lit) (fun t => ∃ d : Reg, r1 = regByte d ∧
      t = (s.setReg d (.string lit)).advance (4 + lit.length)) s (execStringStore r1 lit s) :=
  ends_withReg fun d hd => ends_next ⟨d, hd, rfl⟩

theorem execStringPrint_ends (r1 : Byte) (s : State) :
    Ends (.stringPrint r1) (fun t => ∃ v, t = (s.emitOut (.str v)).advance 2) s (execStringPrint r1 s) :=
  ends_withReg fun _ h => ends_withStr h fun v _ => ends_next ⟨v, rfl⟩

theorem execStringConcat_ends (r1 r2 r3 : Byte) (s : State) :
    Ends (.stringConcat r1 r2 r3) (fun t => ∃ (d : Reg) (v : Str), r1 = regByte d ∧
      t = (s.setReg d (.string v)).advance 4) s (execStringConcat r1 r2 r3 s) :=
  ends_withReg fun d hd => ends_withReg fun _ h2 => ends_withReg fun _ h3 =>
    ends_withStr h2 fun _ _ => ends_withStr h3 fun _ _ => ends_next ⟨d, _, hd, rfl⟩

theorem execStringSystem_ends (r1 : Byte) (s : State) :
    Ends (.stringSystem r1) (fun t => ∃ v,
      (s.fuzzSafe = true ∧ t = (s.emitDiag (.systemSkipped v)).advance 2) ∨
      (s.fuzzSafe = false ∧ t = (s.emitHost (.system v)).advance 2)) s (execStringSystem r1 s) := by
  refine ends_withReg fun _ h => ends_withStr h fun v _ => ends_next ⟨v, ?_⟩
  cases s.fuzzSafe
  · exact .inr ⟨rfl, rfl⟩
  · exact .inl ⟨rfl, rfl⟩

theorem execStringToint_ends (r1 : Byte) (s : State) :
    Ends (.stringToint r1) (fun t => ∃ (d : Reg) (n : Number), r1 = regByte d ∧
      t = (s.setReg d (.number n)).advance 2) s (execStringToint r1 s) :=
  ends_withReg fun d hd => ends_withStr hd fun _ _ => ends_next ⟨d, _, hd, rfl⟩

theorem execCmpReg_ends (r1 r2 : Byte) (s : State) :
    Ends (.cmpReg r1 r2) (fun t => ∃ b, t = (s.setZ b).advance 3) s (execCmpReg r1 r2 s) :=
  ends_withReg fun _ _ => ends_withReg fun _ _ => ends_next ⟨_, rfl⟩

theorem execCmpImmediate_ends (r1 : Byte) (imm : Half) (s : State) :
    Ends (.cmpImmediate r1 imm) (fun t => ∃ b, t = (s.setZ b).advance 4) s (execCmpImmediate r1 imm s) :=
  ends_withReg fun _ h => ends_withNum h fun _ _ => ends_next ⟨_, rfl⟩

theorem execCmpString_ends (r1 : Byte) (lit : Str) (s : State) :
    Ends (.cmpString r1 lit) (fun t => ∃ b, t = (s.setZ b).advance (4 + lit.length)) s
      (execCmpString r1 lit s) :=
  ends_withReg fun _ h => ends_withStr h fun _ _ => ends_next ⟨_, rfl⟩

theorem execIsString_ends (r1 : Byte) (s : State) :
    Ends (.isString r1) (fun t => ∃ b, t = (s.setZ b).advance 2) s (execIsString r1 s) :=
  ends_withReg fun _ _ => ends_next ⟨_, rfl⟩

theorem execIsNumber_ends (r1 : Byte) (s : State) :
    Ends (.isNumber r1) (fun t => ∃ b, t = (s.setZ b).advance 2) s (execIsNumber r1 s) :=
  ends_withReg fun _ _ => ends_next ⟨_, rfl⟩

theorem execStoreReg_ends (r1 r2 : Byte) (s : State) :
    Ends (.storeReg r1 r2) (fun t => ∃ (d : Reg) (v : Value), r1 = regByte d ∧
      t = (s.setReg d v).advance 3) s (execStoreReg r1 r2 s) :=
  ends_withReg fun d hd => ends_withReg fun _ _ => ends_next ⟨d, _, hd, rfl⟩

theorem execPeek_ends (r1 r2 : Byte) (s : State) :
    Ends (.peek r1 r2) (fun t => ∃ (d : Reg) (n : Number), r1 = regByte d ∧
      t = (s.setReg d (.number n)).advance 3) s (execPeek r1 r2 s) :=
  ends_withReg fun d hd => ends_withReg fun _ h2 => ends_withNum h2 fun _ ha =>
    ends_withAddress h2 ha (hi := .inl rfl) fun _ _ => ends_next ⟨d, _, hd, rfl⟩

theorem execPoke_ends (r1 r2 : Byte) (s : State) :
    Ends (.poke r1 r2) (fun t => ∃ (ar : Reg) (a : Number) (addr : Addr) (v : Byte),
      r2 = regByte ar ∧ s.reg ar = .number a ∧ a.toInt = addr.toNat ∧
      t = (s.setMem (s.mem.write addr v)).advance 3) s (execPoke r1 r2 s) :=
  ends_withReg fun _ h1 => ends_withReg fun ar har => ends_withNum h1 fun _ _ =>
    ends_withNum har fun a ha => ends_withAddress har ha (hi := .inr rfl) fun addr hd =>
    ends_next ⟨ar, a, addr, _, har, ha, hd, rfl⟩

theorem execMemcpy_ends (r1 r2 r3 : Byte) (s : State) :
    Ends (.memcpy r1 r2 r3) (fun t => ∃ (dr lr : Reg) (dv n : Number) (src : Nat),
      r1 = regByte dr ∧ r3 = regByte lr ∧ s.reg dr = .number dv ∧ s.reg lr = .number n ∧
      0 ≤ dv.toInt ∧
      t = (s.setMem (Memory.copy Config.copyWrap n.toInt.toNat src dv.toInt.toNat s.mem)).advance 4) s
      (execMemcpy r1 r2 r3 s) :=
  ends_withReg fun dr hdr => ends_withReg fun _ hsr => ends_withReg fun lr hlr =>
    ends_withNum hsr fun _ hsv => ends_withNum hdr fun dv hdv => ends_withNum hlr fun n hn =>
    ends_withCopyAddress hsr hsv (hi := .inr rfl) fun _ => ends_withCopyAddress hdr hdv (hi := .inl rfl) fun h0 =>
    ends_next ⟨dr, lr, dv, n, _, hdr, hlr, hdv, hn, h0, rfl⟩

theorem execStackPush_ends (r1 : Byte) (s : State) :
    Ends (.stackPush r1) (fun t => ∃ (v : Number) (h : s.sp.val < Config.stackSlots),
      t = (s.pushed v h).advance 2) s (execStackPush r1 s) :=
  ends_withReg fun _ h1 => ends_withNum h1 fun v _ => ends_withPush fun h =>
    ends_next ⟨v, h, rfl⟩

theorem execStackPop_ends (r1 : Byte) (s : State) :
    Ends (.stackPop r1) (fun t => s.sp.val ≠ 0 ∧ ∃ d : Reg, r1 = regByte d ∧
      t = (s.popped.setReg d (.number (s.slot s.sp))).advance 2) s (execStackPop r1 s) :=
  ends_withReg fun d hd => ends_withPop fun h => ends_next ⟨h, d, hd, rfl⟩

theorem execStackRet_ends (s : State) :
    Ends .stackRet (fun t => s.sp.val ≠ 0 ∧ t = s.popped.setIp (returnTarget (s.slot s.sp))) s
      (execStackRet s) :=
  ends_withPop fun h => ends_next ⟨h, rfl⟩

theorem execStackCall_ends (imm : Half) (s : State) :
    Ends (.stackCall imm) (fun t => ∃ h : s.sp.val < Config.stackSlots,
      t = (s.pushed (returnAddress s.ip) h).setIp imm) s (execStackCall imm s) :=
  ends_withPush fun h => ends_next ⟨h, rfl⟩

theorem execUnknown_ends (b : Byte) (s : State) :
    Ends (.unknown b) (· = (s.emitDiag (.unknownOpcode b)).advance 1) s (execUnknown b s) := ends_next rfl

end Sys2Proof.Machine
end

