-- ==== Sys2Proof/Laws/Step.lean ====
section
/-! SUPPORT. What an instruction of any kind leaves alone, and the cases of one step. -/

namespace Sys2Proof.Machine

/-- What no instruction that runs to its end changes (10 R21 to R26), and that it keeps memory canonical. -/
structure Ordinary (s t : State) : Prop where
  phase : t.phase = s.phase
  fault : t.fault = s.fault
  icount : t.icount = s.icount
  cap : t.cap = s.cap
  panicCh : t.panicCh = s.panicCh
  fuzzSafe : t.fuzzSafe = s.fuzzSafe
  pending : t.pending = s.pending
  replies : t.replies = s.replies
  running : t.running = true → s.running = true
  memWf : s.mem.wf = true → t.mem.wf = true

/-- Closes `Ordinary s t` when `t` is an update of `s` that touches none of those fields. -/
theorem Ordinary.of_eqs {s t : State} (h : t.phase = s.phase ∧ t.fault = s.fault ∧ t.icount = s.icount ∧
    t.cap = s.cap ∧ t.panicCh = s.panicCh ∧ t.fuzzSafe = s.fuzzSafe ∧ t.pending = s.pending ∧
    t.replies = s.replies) (hr : t.running = true → s.running = true)
    (hm : s.mem.wf = true → t.mem.wf = true) : Ordinary s t :=
  ⟨h.1, h.2.1, h.2.2.1, h.2.2.2.1, h.2.2.2.2.1, h.2.2.2.2.2.1, h.2.2.2.2.2.2.1, h.2.2.2.2.2.2.2, hr, hm⟩

theorem Ordinary.of_math {r1 : Byte} {n : Nat} {s t : State} (h : MathEnd r1 n s t) : Ordinary s t := by
  obtain ⟨d, r, _, rfl⟩ := h
  exact .of_eqs (by simp) (by simp) (by simp)

/-- Every instruction either raises a panic the tables of 60 R200 and R201 give it or runs to an ordinary end. -/
theorem exec_ends (i : Instr) (s : State) : Ends i (Ordinary s) s (exec i s) := by
  cases i with
  | exit => exact (execExit_ends s).mono (by rintro _ rfl; exact .of_eqs (by simp) (by simp) (by simp))
  | nop => exact (execNop_ends s).mono (by rintro _ rfl; exact .of_eqs (by simp) (by simp) (by simp))
  | intStore r1 imm => exact (execIntStore_ends r1 imm s).mono (by
      rintro _ ⟨_, _, rfl⟩; exact .of_eqs (by simp) (by simp) (by simp))
  | intPrint r1 => exact (execIntPrint_ends r1 s).mono (by
      rintro _ ⟨_, rfl⟩; exact .of_eqs (by simp) (by simp) (by simp))
  | intTostring r1 => exact (execIntTostring_ends r1 s).mono (by
      rintro _ ⟨_, _, _, rfl⟩; exact .of_eqs (by simp) (by simp) (by simp))
  | intRandom r1 => exact (execIntRandom_ends r1 s).mono (by
      rintro _ ⟨_, _, rfl⟩; exact .of_eqs (by simp) (by simp) (by simp))
  | jumpTo imm => exact (execJumpTo_ends imm s).mono (by
      rintro _ rfl; exact .of_eqs (by simp) (by simp) (by simp))
  | jumpZ imm => exact (execJumpZ_ends imm s).mono (by
      rintro _ (rfl | rfl) <;> exact .of_eqs (by simp) (by simp) (by simp))
  | jumpNz imm => exact (execJumpNz_ends imm s).mono (by
      rintro _ (rfl | rfl) <;> exact .of_eqs (by simp) (by simp) (by simp))
  | mathXor r1 r2 r3 => exact (threeRegister_ends _ r1 r2 r3 s).mono fun _ => .of_math
  | mathAdd r1 r2 r3 => exact (threeRegister_ends _ r1 r2 r3 s).mono fun _ => .of_math
  | mathSub r1 r2 r3 => exact (threeRegister_ends _ r1 r2 r3 s).mono fun _ => .of_math
  | mathMul r1 r2 r3 => exact (threeRegister_ends _ r1 r2 r3 s).mono fun _ => .of_math
  | mathDiv r1 r2 r3 => exact (execMathDiv_ends r1 r2 r3 s).mono fun _ => .of_math
  | mathInc r1 => exact (oneRegister_ends _ r1 s).mono fun _ => .of_math
  | mathDec r1 => exact (oneRegister_ends _ r1 s).mono fun _ => .of_math
  | mathAnd r1 r2 r3 => exact (threeRegister_ends _ r1 r2 r3 s).mono fun _ => .of_math
  | mathOr r1 r2 r3 => exact (threeRegister_ends _ r1 r2 r3 s).mono fun _ => .of_math
  | mathLft r1 r2 r3 => exact (threeRegister_ends _ r1 r2 r3 s).mono fun _ => .of_math
  | mathRgt r1 r2 r3 => exact (threeRegister_ends _ r1 r2 r3 s).mono fun _ => .of_math
  | stringStore r1 lit => exact (execStringStore_ends r1 lit s).mono (by
      rintro _ ⟨_, _, rfl⟩; exact .of_eqs (by simp) (by simp) (by simp))
  | stringPrint r1 => exact (execStringPrint_ends r1 s).mono (by
      rintro _ ⟨_, rfl⟩; exact .of_eqs (by simp) (by simp) (by simp))
  | stringConcat r1 r2 r3 => exact (execStringConcat_ends r1 r2 r3 s).mono (by
      rintro _ ⟨_, _, _, rfl⟩; exact .of_eqs (by simp) (by simp) (by simp))
  | stringSystem r1 => exact (execStringSystem_ends r1 s).mono (by
      rintro _ ⟨_, ⟨_, rfl⟩ | ⟨_, rfl⟩⟩ <;> exact .of_eqs (by simp) (by simp) (by simp))
  | stringToint r1 => exact (execStringToint_ends r1 s).mono (by
      rintro _ ⟨_, _, _, rfl⟩; exact .of_eqs (by simp) (by simp) (by simp))
  | cmpReg r1 r2 => exact (execCmpReg_ends r1 r2 s).mono (by
      rintro _ ⟨_, rfl⟩; exact .of_eqs (by simp) (by simp) (by simp))
  | cmpImmediate r1 imm => exact (execCmpImmediate_ends r1 imm s).mono (by
      rintro _ ⟨_, rfl⟩; exact .of_eqs (by simp) (by simp) (by simp))
  | cmpString r1 lit => exact (execCmpString_ends r1 lit s).mono (by
      rintro _ ⟨_, rfl⟩; exact .of_eqs (by simp) (by simp) (by simp))
  | isString r1 => exact (execIsString_ends r1 s).mono (by
      rintro _ ⟨_, rfl⟩; exact .of_eqs (by simp) (by simp) (by simp))
  | isNumber r1 => exact (execIsNumber_ends r1 s).mono (by
      rintro _ ⟨_, rfl⟩; exact .of_eqs (by simp) (by simp) (by simp))
  | storeReg r1 r2 => exact (execStoreReg_ends r1 r2 s).mono (by
      rintro _ ⟨_, _, _, rfl⟩; exact .of_eqs (by simp) (by simp) (by simp))
  | peek r1 r2 => exact (execPeek_ends r1 r2 s).mono (by
      rintro _ ⟨_, _, _, rfl⟩; exact .of_eqs (by simp) (by simp) (by simp))
  | poke r1 r2 => exact (execPoke_ends r1 r2 s).mono (by
      rintro _ ⟨_, _, _, _, _, _, _, rfl⟩
      exact .of_eqs (by simp) (by simp) fun h => Memory.write_wf h _ _)
  | memcpy r1 r2 r3 => exact (execMemcpy_ends r1 r2 r3 s).mono (by
      rintro _ ⟨_, _, _, _, _, _, _, _, _, _, rfl⟩
      exact .of_eqs (by simp) (by simp) fun h => Memory.copy_wf _ _ _ _ _ h)
  | stackPush r1 => exact (execStackPush_ends r1 s).mono (by
      rintro _ ⟨_, _, rfl⟩; exact .of_eqs (by simp) (by simp) (by simp))
  | stackPop r1 => exact (execStackPop_ends r1 s).mono (by
      rintro _ ⟨_, _, _, rfl⟩; exact .of_eqs (by simp) (by simp) (by simp))
  | stackRet => exact (execStackRet_ends s).mono (by
      rintro _ ⟨_, rfl⟩; exact .of_eqs (by simp) (by simp) (by simp))
  | stackCall imm => exact (execStackCall_ends imm s).mono (by
      rintro _ ⟨_, rfl⟩; exact .of_eqs (by simp) (by simp) (by simp))
  | unknown b => exact (execUnknown_ends b s).mono (by
      rintro _ rfl; exact .of_eqs (by simp) (by simp) (by simp))

/-- What a meaning answers, without its causes. -/
theorem exec_cases (i : Instr) (s : State) :
    ∃ t, exec i s = .next t ∧ ((∃ p, t = s.takePanic p) ∨ Ordinary s t) := by
  obtain ⟨p, _, h⟩ | ⟨t, ht, h⟩ := exec_ends i s
  · exact ⟨_, h, .inl ⟨p, rfl⟩⟩
  · exact ⟨t, h, .inr ht⟩

/-- What the loop does after a dispatch touches `running`, the phase and the count alone (40 R93). -/
theorem State.afterDispatch_only (t : State) :
    t.afterDispatch = { t with
      running := t.afterDispatch.running
      phase := t.afterDispatch.phase
      icount := t.afterDispatch.icount } := by
  unfold State.afterDispatch State.loopTest State.counted
  split
  · rfl
  · split <;> rfl

/-- The three cases of one step: the host's move, the end of the loop, or one dispatch of the instruction at
`ip` (40 R90, R91). -/
theorem stepWith_cases (opc : OpcodeMap) (s : State) :
    (s.phase ≠ .executing ∧ stepWith opc s = .next s.hostMove) ∨
    (s.phase = .executing ∧ s.running = false ∧ stepWith opc s = .next { s with phase := .stopped }) ∨
    (s.phase = .executing ∧ s.running = true ∧ ∃ i t, decodeWith opc (fetch opc s.mem s.ip) = .ok (i, []) ∧
      exec i s = .next t ∧ stepWith opc s = .next t.afterDispatch) := by
  by_cases hp : s.phase = .executing
  · cases hr : s.running with
    | false =>
      refine .inr (.inl ⟨hp, rfl, ?_⟩)
      simp [stepWith, hp, hr, State.loopTest]
    | true =>
      obtain ⟨i, hi⟩ := decodeWith_fetch opc s.mem s.ip
      obtain ⟨t, ht, _⟩ := exec_cases i s
      refine .inr (.inr ⟨hp, rfl, i, t, hi, ht, ?_⟩)
      simp [stepWith, hp, hr, dispatch, hi, ht, afterExec]
  · exact .inl ⟨hp, by simp [stepWith, hp]⟩

end Sys2Proof.Machine
end

