-- ==== Sys2Proof/Laws/Commands.lean ====
section
/-! SUPPORT. The host's commands: when CREATE succeeds, what DUMP shows of the stack, that a command keeps what is not
the instance's, and the two cases of the host's move. -/

namespace Sys2Proof.Machine

theorem State.create_of_legal {image : List Byte} (h1 : 1 ≤ image.length) (h2 : image.length ≤ 65535) (fz : Bool)
    (s : State) : s.create image fz = (s.created image fz, .created) := if_pos ⟨h1, h2⟩

theorem State.create_of_illegal {image : List Byte} (h : image.length = 0 ∨ 65535 < image.length) (fz : Bool)
    (s : State) : s.create image fz = (s.emptied, .createFailed) := by
  refine if_neg ?_
  simp only [Config.maxProg]
  omega

/-! ### What DUMP shows of the stack -/

@[simp] theorem State.entries_length (s : State) : s.entries.length = s.sp.val := by
  have := s.sp.isLt
  simp only [State.entries, List.length_take, Vector.length_toList]
  omega

/-- Entry `k + 1` of the stack is the slot at index `k`. -/
@[simp] theorem State.entries_getElem {s : State} {k : Nat} (h : k < s.entries.length) :
    s.entries[k] = s.stack[k]'(by have := s.sp.isLt; rw [State.entries_length] at h; omega) := by
  simp [State.entries]

/-- States alike in all but the slots above `sp` have the same entries, so DUMP shows no stale slot (10 R20). -/
theorem AlikeBelowSp.entries_eq {s t : State} (h : AlikeBelowSp s t) : s.entries = t.entries := by
  have hsp : t.sp = s.sp := by rw [h.1]
  refine List.ext_getElem (by simp [hsp]) fun k hk _ => ?_
  rw [State.entries_getElem, State.entries_getElem]
  exact h.2 k (by simpa using hk)

/-! ### Commands -/

/-- A command leaves the random input, the commands to come and the answers given as they are. -/
theorem State.accept_keepsWorld (c : Command) (s : State) :
    (s.accept c).1.draws = s.draws ∧ (s.accept c).1.pending = s.pending ∧ (s.accept c).1.replies = s.replies := by
  cases c <;> simp only [State.accept, State.create] <;> (repeat' split) <;> exact ⟨rfl, rfl, rfl⟩

theorem State.hostMove_nil {s : State} (h : s.pending = []) : s.hostMove = s := by simp only [State.hostMove, h]

theorem State.hostMove_cons {s t : State} {c : Command} {rest : List Command} {r : Reply} (h : s.pending = c :: rest)
    (ha : ({ s with pending := rest } : State).accept c = (t, r)) :
    s.hostMove = { t with replies := t.replies ++ [r] } := by simp only [State.hostMove, h, ha]

/-- A run of `k + 1` steps is a step and a run of `k`. -/
theorem core_run_succ {s t : State} (h : step s = .next t) (k : Nat) : core.run (k + 1) s = core.run k t := by
  have : core.step s = .next t := h
  simp only [Host.Core.run, this]

end Sys2Proof.Machine
end

