-- ==== Sys2Proof/Laws/Decimal.lean ====
section
/-! SUPPORT. Decimal text: what the digit writer of INT_TOSTRING produces (41 R105) and what the digit reader of
STRING_TOINT takes (44 R147). -/

namespace Sys2Proof.Machine

theorem digitByte_toNat {d : Nat} (h : d < 10) : (digitByte d).toNat = 0x30 + d := by
  simp only [digitByte, BitVec.toNat_ofNat]
  omega

/-- The digits written stand for the number, at least one of them, with no leading zero but for 0 itself. -/
theorem decDigits_spec : ∀ (fuel n : Nat) (acc : Str), n < 10 ^ fuel → 0 < fuel →
    ∃ ds, decDigits fuel n acc = ds ++ acc ∧ AllDigits ds ∧ digitsValue ds = n ∧ ds ≠ [] ∧
      (ds.head? = some 0x30 → n = 0 ∧ ds = [0x30])
  | 0, _, _, _, h => absurd h (Nat.lt_irrefl 0)
  | fuel + 1, n, acc, hn, _ => by
    unfold decDigits
    split
    · rename_i h
      have hd := digitByte_toNat h
      refine ⟨[digitByte n], rfl, ?_, by simp [digitsValue, hd], by simp, fun e => ?_⟩
      · intro b hb
        rw [List.mem_singleton.mp hb, hd]
        omega
      · have e' : digitByte n = 0x30 := by simpa using e
        have : n = 0 := by
          rw [e'] at hd
          simp at hd
          omega
        exact ⟨this, by rw [e']⟩
    · rename_i h
      have hd := digitByte_toNat (d := n % 10) (by omega)
      have hf : 0 < fuel := by
        rcases Nat.eq_zero_or_pos fuel with rfl | h'
        · simp at hn
          omega
        · exact h'
      obtain ⟨ds, e, hall, hv, hne, hz⟩ :=
        decDigits_spec fuel (n / 10) (digitByte (n % 10) :: acc) (by rw [Nat.pow_succ] at hn; omega) hf
      refine ⟨ds ++ [digitByte (n % 10)], by simp [e], fun b hb => ?_, ?_, by simp, fun hh => ?_⟩
      · rcases List.mem_append.mp hb with hb | hb
        · exact hall b hb
        · rw [List.mem_singleton.mp hb, hd]
          omega
      · unfold digitsValue at *
        rw [List.foldl_append, hv]
        simp [hd]
        omega
      · cases ds with
        | nil => exact absurd rfl hne
        | cons d t =>
          have := hz (by simpa using hh)
          omega

/-- The digits read at the front of a text are read whole, and nothing after them. -/
theorem parseDigits_append (ds rest : Str) (h : AllDigits ds)
    (hr : ∀ b, rest.head? = some b → ¬ (0x30 ≤ b.toNat ∧ b.toNat ≤ 0x39)) (v : Nat) :
    parseDigits v (ds ++ rest) = ds.foldl (fun v b => 10 * v + (b.toNat - 0x30)) v := by
  induction ds generalizing v with
  | nil =>
    cases rest with
    | nil => rfl
    | cons b t =>
      have := hr b rfl
      simp [parseDigits, isDigitByte]
      omega
  | cons b t ih =>
    have hb := h b (by simp)
    simp [parseDigits, isDigitByte, hb.1, hb.2]
    exact ih (fun c hc => h c (by simp [hc])) _

theorem isSpaceByte_iff (b : Byte) : isSpaceByte b = true ↔ SpaceByte b := by
  simp [isSpaceByte, SpaceByte, or_assoc]

theorem skipSpaces_append (ws t : Str) (h : ∀ b ∈ ws, SpaceByte b) : skipSpaces (ws ++ t) = skipSpaces t := by
  induction ws with
  | nil => rfl
  | cons b r ih =>
    simp [skipSpaces, (isSpaceByte_iff b).mpr (h b (by simp)), ih (fun c hc => h c (by simp [hc]))]

theorem skipSpaces_of_head (t : Str) (h : ∀ b, t.head? = some b → ¬ SpaceByte b) : skipSpaces t = t := by
  cases t with
  | nil => rfl
  | cons b r =>
    have := h b rfl
    rw [← isSpaceByte_iff] at this
    simp [skipSpaces, this]

theorem parseSigned_unsigned (t : Str) (h : ∀ b, t.head? = some b → b ≠ 0x2D ∧ b ≠ 0x2B) :
    parseSigned t = parseDigits 0 t := by
  cases t with
  | nil => rfl
  | cons b r =>
    have := h b rfl
    rw [parseSigned, if_neg this.1, if_neg this.2]

end Sys2Proof.Machine
end

