-- ==== Sys2Proof/Laws/PerInstr.lean ====
section
/-! SUPPORT. Statements made instruction by instruction. Family EncodedLength: the encoding of an instruction
has the length 30 R65 gives it, under every opcode map. -/

namespace Sys2Proof.Laws.EncodedLength

/-- 30 R65: the length in bytes of each instruction. -/
def specLength : Instr → Nat
  | .exit => 1
  | .intStore _ _ => 4
  | .intPrint _ => 2
  | .intTostring _ => 2
  | .intRandom _ => 2
  | .jumpTo _ => 3
  | .jumpZ _ => 3
  | .jumpNz _ => 3
  | .mathXor _ _ _ => 4
  | .mathAdd _ _ _ => 4
  | .mathSub _ _ _ => 4
  | .mathMul _ _ _ => 4
  | .mathDiv _ _ _ => 4
  | .mathInc _ => 2
  | .mathDec _ => 2
  | .mathAnd _ _ _ => 4
  | .mathOr _ _ _ => 4
  | .mathLft _ _ _ => 4
  | .mathRgt _ _ _ => 4
  | .stringStore _ lit => 4 + lit.length
  | .stringPrint _ => 2
  | .stringConcat _ _ _ => 4
  | .stringSystem _ => 2
  | .stringToint _ => 2
  | .cmpReg _ _ => 3
  | .cmpImmediate _ _ => 4
  | .cmpString _ lit => 4 + lit.length
  | .isString _ => 2
  | .isNumber _ => 2
  | .nop => 1
  | .storeReg _ _ => 3
  | .peek _ _ => 3
  | .poke _ _ => 3
  | .memcpy _ _ _ => 4
  | .stackPush _ => 2
  | .stackPop _ => 2
  | .stackRet => 1
  | .stackCall _ => 3
  | .unknown _ => 1

/-- The encoding is as long as the spec says. -/
def Statement (i : Instr) : Prop := ∀ opc : OpcodeMap, (encodeWith opc i).length = specLength i

theorem exit : Statement (.exit) := fun _ => rfl

theorem intStore (r1 : Byte) (imm : Half) : Statement (.intStore r1 imm) := fun _ => rfl

theorem intPrint (r1 : Byte) : Statement (.intPrint r1) := fun _ => rfl

theorem intTostring (r1 : Byte) : Statement (.intTostring r1) := fun _ => rfl

theorem intRandom (r1 : Byte) : Statement (.intRandom r1) := fun _ => rfl

theorem jumpTo (imm : Half) : Statement (.jumpTo imm) := fun _ => rfl

theorem jumpZ (imm : Half) : Statement (.jumpZ imm) := fun _ => rfl

theorem jumpNz (imm : Half) : Statement (.jumpNz imm) := fun _ => rfl

theorem mathXor (r1 : Byte) (r2 : Byte) (r3 : Byte) : Statement (.mathXor r1 r2 r3) := fun _ => rfl

theorem mathAdd (r1 : Byte) (r2 : Byte) (r3 : Byte) : Statement (.mathAdd r1 r2 r3) := fun _ => rfl

theorem mathSub (r1 : Byte) (r2 : Byte) (r3 : Byte) : Statement (.mathSub r1 r2 r3) := fun _ => rfl

theorem mathMul (r1 : Byte) (r2 : Byte) (r3 : Byte) : Statement (.mathMul r1 r2 r3) := fun _ => rfl

theorem mathDiv (r1 : Byte) (r2 : Byte) (r3 : Byte) : Statement (.mathDiv r1 r2 r3) := fun _ => rfl

theorem mathInc (r1 : Byte) : Statement (.mathInc r1) := fun _ => rfl

theorem mathDec (r1 : Byte) : Statement (.mathDec r1) := fun _ => rfl

theorem mathAnd (r1 : Byte) (r2 : Byte) (r3 : Byte) : Statement (.mathAnd r1 r2 r3) := fun _ => rfl

theorem mathOr (r1 : Byte) (r2 : Byte) (r3 : Byte) : Statement (.mathOr r1 r2 r3) := fun _ => rfl

theorem mathLft (r1 : Byte) (r2 : Byte) (r3 : Byte) : Statement (.mathLft r1 r2 r3) := fun _ => rfl

theorem mathRgt (r1 : Byte) (r2 : Byte) (r3 : Byte) : Statement (.mathRgt r1 r2 r3) := fun _ => rfl

theorem stringStore (r1 : Byte) (lit : List Byte) : Statement (.stringStore r1 lit) := by intro opc; simp [encodeWith, literalBytes, halfBytes, specLength]; omega

theorem stringPrint (r1 : Byte) : Statement (.stringPrint r1) := fun _ => rfl

theorem stringConcat (r1 : Byte) (r2 : Byte) (r3 : Byte) : Statement (.stringConcat r1 r2 r3) := fun _ => rfl

theorem stringSystem (r1 : Byte) : Statement (.stringSystem r1) := fun _ => rfl

theorem stringToint (r1 : Byte) : Statement (.stringToint r1) := fun _ => rfl

theorem cmpReg (r1 : Byte) (r2 : Byte) : Statement (.cmpReg r1 r2) := fun _ => rfl

theorem cmpImmediate (r1 : Byte) (imm : Half) : Statement (.cmpImmediate r1 imm) := fun _ => rfl

theorem cmpString (r1 : Byte) (lit : List Byte) : Statement (.cmpString r1 lit) := by intro opc; simp [encodeWith, literalBytes, halfBytes, specLength]; omega

theorem isString (r1 : Byte) : Statement (.isString r1) := fun _ => rfl

theorem isNumber (r1 : Byte) : Statement (.isNumber r1) := fun _ => rfl

theorem nop : Statement (.nop) := fun _ => rfl

theorem storeReg (r1 : Byte) (r2 : Byte) : Statement (.storeReg r1 r2) := fun _ => rfl

theorem peek (r1 : Byte) (r2 : Byte) : Statement (.peek r1 r2) := fun _ => rfl

theorem poke (r1 : Byte) (r2 : Byte) : Statement (.poke r1 r2) := fun _ => rfl

theorem memcpy (r1 : Byte) (r2 : Byte) (r3 : Byte) : Statement (.memcpy r1 r2 r3) := fun _ => rfl

theorem stackPush (r1 : Byte) : Statement (.stackPush r1) := fun _ => rfl

theorem stackPop (r1 : Byte) : Statement (.stackPop r1) := fun _ => rfl

theorem stackRet : Statement (.stackRet) := fun _ => rfl

theorem stackCall (imm : Half) : Statement (.stackCall imm) := fun _ => rfl

theorem unknown (b : Byte) : Statement (.unknown b) := fun _ => rfl

end Sys2Proof.Laws.EncodedLength
end

