-- ==== Sys2Proof/Tests/Slice0.lean ====
section
/-! SUPPORT. The model's own tests. Every expected result is spec/'s own: a vector of 95_test_vectors.md, named in the
comment (V-..., S..., P...), or the rule named there; none comes from a run of the model. After them, for every
statement with hypotheses, a witness that its hypotheses can be met, each clause at its boundary. -/

namespace Sys2Proof.Tests

open Sys2Proof.Machine

/-! ### Ill-formed terms are refused -/

/-- 30 R62: a literal of 65536 bytes has no length field. -/
theorem test_wellFormed_literal_too_long (lit : List Byte) (h : lit.length = 65536) :
    (Instr.stringStore 0 lit).wellFormed Config.opc = false ∧ (Instr.cmpString 0 lit).wellFormed Config.opc = false := by
  simp [Instr.wellFormed, literalFits, h]

/-- 49 R190: a byte with an instruction of its own is not the fallback's. -/
theorem test_wellFormed_unknown_assigned :
    (Instr.unknown 0x00).wellFormed Config.opc = false ∧ (Instr.unknown 0x73).wellFormed Config.opc = false ∧
    (Instr.unknown 0x05).wellFormed Config.opc = true ∧ (Instr.unknown 0xFF).wellFormed Config.opc = true := by decide

/-- 30 R66, R71: every register byte is a legal encoding. -/
theorem test_wellFormed_bad_register_is_legal : (Instr.intStore 0xFF 0).wellFormed Config.opc = true := by decide

/-! ### Decoding: one word per constructor, written out from 30 R64 and R70 -/

/-- V-CTL-1. -/
theorem test_decode_exit : decode [0x00] = .ok (.exit, []) := rfl

/-- V-INT-1. -/
theorem test_decode_intStore : decode [0x01, 0x0F, 0xFF, 0xFF] = .ok (.intStore 15 65535, []) := rfl

/-- V-INT-5. -/
theorem test_decode_intPrint : decode [0x02, 0x03] = .ok (.intPrint 3, []) := rfl

/-- V-INT-7. -/
theorem test_decode_intTostring : decode [0x03, 0x03] = .ok (.intTostring 3, []) := rfl

/-- V-INT-10. -/
theorem test_decode_intRandom : decode [0x04, 0x02] = .ok (.intRandom 2, []) := rfl

/-- V-JMP-1. -/
theorem test_decode_jumpTo : decode [0x10, 0x34, 0x12] = .ok (.jumpTo 0x1234, []) := rfl

/-- V-JMP-2. -/
theorem test_decode_jumpZ : decode [0x11, 0x34, 0x12] = .ok (.jumpZ 4660, []) := rfl

/-- P1. -/
theorem test_decode_jumpNz : decode [0x12, 0x08, 0x00] = .ok (.jumpNz 8, []) := rfl

/-- the MATH table. -/
theorem test_decode_mathXor : decode [0x20, 0x02, 0x00, 0x01] = .ok (.mathXor 2 0 1, []) := rfl

/-- S7. -/
theorem test_decode_mathAdd : decode [0x21, 0x02, 0x00, 0x01] = .ok (.mathAdd 2 0 1, []) := rfl

/-- the MATH table. -/
theorem test_decode_mathSub : decode [0x22, 0x02, 0x00, 0x01] = .ok (.mathSub 2 0 1, []) := rfl

/-- the MATH table. -/
theorem test_decode_mathMul : decode [0x23, 0x02, 0x00, 0x01] = .ok (.mathMul 2 0 1, []) := rfl

/-- S3a. -/
theorem test_decode_mathDiv : decode [0x24, 0x02, 0x00, 0x01] = .ok (.mathDiv 2 0 1, []) := rfl

/-- V-MATH-8. -/
theorem test_decode_mathInc : decode [0x25, 0x00] = .ok (.mathInc 0, []) := rfl

/-- V-MATH-10. -/
theorem test_decode_mathDec : decode [0x26, 0x00] = .ok (.mathDec 0, []) := rfl

/-- the MATH table. -/
theorem test_decode_mathAnd : decode [0x27, 0x02, 0x00, 0x01] = .ok (.mathAnd 2 0 1, []) := rfl

/-- the MATH table. -/
theorem test_decode_mathOr : decode [0x28, 0x02, 0x00, 0x01] = .ok (.mathOr 2 0 1, []) := rfl

/-- the MATH table. -/
theorem test_decode_mathLft : decode [0x29, 0x02, 0x00, 0x01] = .ok (.mathLft 2 0 1, []) := rfl

/-- the MATH table. -/
theorem test_decode_mathRgt : decode [0x2A, 0x02, 0x00, 0x01] = .ok (.mathRgt 2 0 1, []) := rfl

/-- V-STR-2, one byte more. -/
theorem test_decode_stringStore : decode [0x30, 0x01, 0x02, 0x00, 0x48, 0x69, 0x07] = .ok (.stringStore 1 [0x48, 0x69], [0x07]) := rfl

/-- V-STR-6. -/
theorem test_decode_stringPrint : decode [0x31, 0x01] = .ok (.stringPrint 1, []) := rfl

/-- P4. -/
theorem test_decode_stringConcat : decode [0x32, 0x02, 0x00, 0x01] = .ok (.stringConcat 2 0 1, []) := rfl

/-- V-STR-12. -/
theorem test_decode_stringSystem : decode [0x33, 0x00] = .ok (.stringSystem 0, []) := rfl

/-- V-STR-15. -/
theorem test_decode_stringToint : decode [0x34, 0x02] = .ok (.stringToint 2, []) := rfl

/-- V-CMP-1. -/
theorem test_decode_cmpReg : decode [0x40, 0x00, 0x01] = .ok (.cmpReg 0 1, []) := rfl

/-- V-CMP-7. -/
theorem test_decode_cmpImmediate : decode [0x41, 0x00, 0x06, 0x00] = .ok (.cmpImmediate 0 6, []) := rfl

/-- V-CMP-12. -/
theorem test_decode_cmpString : decode [0x42, 0x00, 0x01, 0x00, 0x61] = .ok (.cmpString 0 [0x61], []) := rfl

/-- V-CMP-15. -/
theorem test_decode_isString : decode [0x43, 0x00] = .ok (.isString 0, []) := rfl

/-- V-CMP-19. -/
theorem test_decode_isNumber : decode [0x44, 0x20] = .ok (.isNumber 32, []) := rfl

/-- V-CTL-2. -/
theorem test_decode_nop : decode [0x50] = .ok (.nop, []) := rfl

/-- V-MOV-1. -/
theorem test_decode_storeReg : decode [0x51, 0x01, 0x00] = .ok (.storeReg 1 0, []) := rfl

/-- S2a. -/
theorem test_decode_peek : decode [0x60, 0x02, 0x01] = .ok (.peek 2 1, []) := rfl

/-- S2a. -/
theorem test_decode_poke : decode [0x61, 0x00, 0x01] = .ok (.poke 0 1, []) := rfl

/-- P6. -/
theorem test_decode_memcpy : decode [0x62, 0x05, 0x01, 0x02] = .ok (.memcpy 5 1 2, []) := rfl

/-- V-STK-1. -/
theorem test_decode_stackPush : decode [0x70, 0x00] = .ok (.stackPush 0, []) := rfl

/-- V-STK-7. -/
theorem test_decode_stackPop : decode [0x71, 0x03] = .ok (.stackPop 3, []) := rfl

/-- V-STK-10. -/
theorem test_decode_stackRet : decode [0x72] = .ok (.stackRet, []) := rfl

/-- S5. -/
theorem test_decode_stackCall : decode [0x73, 0x06, 0x00] = .ok (.stackCall 6, []) := rfl

/-- V-UNK-4. -/
theorem test_decode_unknown : decode [0xFF, 0x00] = .ok (.unknown 0xFF, [0x00]) := rfl

/-- 30 R65: an instruction whose bytes end early is rejected by name, whichever byte is missing. -/
theorem test_decode_truncated :
    decode [] = .error .noOpcode ∧ decode [0x01, 0x00, 0x05] = .error (.truncated .intStore) ∧
    decode [0x30, 0x00, 0x02, 0x00, 0x48] = .error (.truncated .stringStore) := ⟨rfl, rfl, rfl⟩

/-- 30 R61, R64: the encoder writes the low byte of a 16-bit operand first, and a literal's length before its bytes. -/
theorem test_encode :
    encode (.jumpTo 0x1234) = [0x10, 0x34, 0x12] ∧
    encode (.cmpString 2 [0x61, 0x62, 0x31, 0x32]) = [0x42, 0x02, 0x04, 0x00, 0x61, 0x62, 0x31, 0x32] := ⟨rfl, rfl⟩

/-- `spec/opcode_table.json` numbers the first byte in bits 7..0: INT_STORE r0, 5 (S6), and STRING_STORE r0, "" from its
one opcode byte, whose operand bytes are then 0. -/
theorem test_decodeTableWord :
    decodeTableWord 32 0x00050001 = some (.intStore 0 5) ∧ decodeTableWord 8 0x30 = some (.stringStore 0 []) :=
  ⟨rfl, rfl⟩

/-! ### Execution: one step each -/

/-- A Number register. -/
abbrev num (v : Int) : Value := .number (BitVec.ofInt 32 v)

/-- A running machine with these bytes at address 0 and these first registers, the others `Number(0)`. -/
def start (bytes : List Byte) (regs : List Value) : State :=
  { State.reset with
    mem := Memory.ofImage 0 bytes
    phase := .executing
    regs := Vector.ofFn fun i => regs.getD i.val (num 0) }

/-- The same machine with Z set. -/
def startZ (bytes : List Byte) (regs : List Value) : State := { start bytes regs with z := true }

/-- The same machine with one Number on the stack. -/
def startTop (bytes : List Byte) (top : Int) : State :=
  { start bytes [] with sp := 1, stack := State.reset.stack.set 0 (BitVec.ofInt 32 top) }

/-- A field or two of the state after one step. -/
def after {α : Type} (s : State) (f : State → α) : Option α :=
  match step s with
  | .next t => some (f t)
  | .fault _ => none
  | .refused _ => none

/-- What a panic leaves: the fault, `ip`, `running` and the phase. -/
abbrev panicView (t : State) : Option Panic × Addr × Bool × Phase := (t.fault, t.ip, t.running, t.phase)

/-- V-CTL-1. -/
theorem test_exit :
    after (start [0x00] []) (fun t => (t.running, t.ip, t.icount, t.phase)) = some (false, 1, 1, .stopped) := by decide

/-- V-CTL-3: at 65535. -/
theorem test_nop :
    after ({ start [] [] with ip := 65535, mem := [(65535, 0x50)] }) (fun t => (t.ip, t.icount, t.phase)) = some (0, 1, .executing) := by decide

/-- V-CTL-5: the cap stops the loop. -/
theorem test_cap :
    after ({ start [0x10, 0x00, 0x00] [] with cap := 5, icount := 4 }) (fun t => (t.running, t.icount, t.phase, t.fault)) = some (false, 5, .stopped, none) := by decide

/-- V-INT-4: at 65534. -/
theorem test_intStore :
    after ({ start [0x34, 0x12] [] with ip := 65534, mem := [(0, 0x34), (1, 0x12), (65534, 0x01), (65535, 0x02)] }) (fun t => (t.reg 2, t.ip)) = some (num 4660, 2) := by decide

/-- V-INT-2. -/
theorem test_intStore_bad :
    after (start [0x01, 0x10, 0x05, 0x00] []) panicView = some (some ⟨.badRegister, 16⟩, 0, false, .panicked) := by decide

/-- V-INT-5. -/
theorem test_intPrint :
    after (start [0x02, 0x03] [num 0, num 0, num 0, num (-42)]) (fun t => (t.outCh, renderOut t.outCh, t.ip)) = some ([.int (BitVec.ofInt 32 (-42))], [0x2D, 0x34, 0x32], 2) := by decide

/-- V-INT-6. -/
theorem test_intPrint_string :
    after (start [0x02, 0x03] [num 0, num 0, num 0, .string [0x35]]) panicView = some (some ⟨.typeMismatch, 3⟩, 0, false, .panicked) := by decide

/-- V-INT-7. -/
theorem test_intTostring :
    after (start [0x03, 0x03] [num 0, num 0, num 0, num (-2147483648)]) (fun t => (t.reg 3, t.ip)) = some (.string [0x2D, 0x32, 0x31, 0x34, 0x37, 0x34, 0x38, 0x33, 0x36, 0x34, 0x38], 2) := by decide

/-- V-INT-8. -/
theorem test_intTostring_zero :
    after (startZ [0x03, 0x03] [num 0, num 0, num 0, num 0]) (fun t => (t.reg 3, t.z)) = some (.string [0x30], true) := by decide

/-- V-INT-10, for every value the random input may deliver. -/
theorem test_intRandom :
    after (startZ [0x04, 0x02] [num 0, num 0, .string [0x78]]) (fun t => (t.reg 2, t.z, t.ip, t.draws)) =
      some (.number (BitVec.ofInt 32 (Config.freeRandom 0).toNat), true, 2, 1) := rfl

/-- 41 R103: a bad register byte draws no value. -/
theorem test_intRandom_bad : after (start [0x04, 0x10] []) (fun t => (t.fault, t.draws)) = some (some ⟨.badRegister, 16⟩, 0) := by
  decide

/-- V-JMP-1. -/
theorem test_jumpTo :
    after (start [0x10, 0x34, 0x12] []) (fun t => t.ip) = some (4660) := by decide

/-- V-JMP-2. -/
theorem test_jumpZ_taken :
    after (startZ [0x11, 0x34, 0x12] []) (fun t => (t.ip, t.z)) = some (4660, true) := by decide

/-- V-JMP-3. -/
theorem test_jumpZ_not :
    after (start [0x11, 0x34, 0x12] []) (fun t => t.ip) = some (3) := by decide

/-- V-JMP-4. -/
theorem test_jumpNz_taken :
    after (start [0x12, 0xFF, 0xFF] []) (fun t => t.ip) = some (65535) := by decide

/-- V-JMP-5. -/
theorem test_jumpNz_not :
    after (startZ [0x12, 0xFF, 0xFF] []) (fun t => t.ip) = some (3) := by decide

/-- The MATH table, 2147483647 and 1. -/
theorem test_mathAdd_wraps :
    after (start [0x21, 0x02, 0x00, 0x01] [num (2147483647), num (1)]) (fun t => (t.reg 2, t.z, t.ip)) = some (num (-2147483648), false, 4) := by decide

/-- V-MATH-2. -/
theorem test_mathAdd_string_destination :
    after (start [0x21, 0x02, 0x00, 0x01] [num 1, num 2, .string [0x78]]) (fun t => (t.reg 2, t.z)) = some (num 3, false) := by decide

/-- The MATH table, 7 and -2. -/
theorem test_mathSub :
    after (start [0x22, 0x02, 0x00, 0x01] [num (7), num (-2)]) (fun t => (t.reg 2, t.z, t.ip)) = some (num (9), false, 4) := by decide

/-- V-MATH-7. -/
theorem test_mathSub_zero :
    after (start [0x22, 0x00, 0x00, 0x00] [num 21]) (fun t => (t.reg 0, t.z)) = some (num 0, true) := by decide

/-- The MATH table, 65536 and 65536. -/
theorem test_mathMul_zero :
    after (start [0x23, 0x02, 0x00, 0x01] [num (65536), num (65536)]) (fun t => (t.reg 2, t.z, t.ip)) = some (num (0), true, 4) := by decide

/-- The MATH table, 46341 and 46341. -/
theorem test_mathMul_wraps :
    after (start [0x23, 0x02, 0x00, 0x01] [num (46341), num (46341)]) (fun t => (t.reg 2, t.z, t.ip)) = some (num (-2147479015), false, 4) := by decide

/-- The MATH table, -2147483648 and -1. -/
theorem test_mathDiv :
    after (start [0x24, 0x02, 0x00, 0x01] [num (-2147483648), num (-1)]) (fun t => (t.reg 2, t.z, t.ip)) = some (num (-2147483648), false, 4) := by decide

/-- S3a: division by zero leaves the destination. -/
theorem test_mathDiv_zero :
    after (start [0x24, 0x02, 0x00, 0x01] [num 6, num 0, num 9]) (fun t => (t.reg 2, panicView t)) =
      some (num 9, some ⟨.divZero, 1⟩, 0, false, .panicked) := by decide

/-- The MATH table, 7 and -2. -/
theorem test_mathXor :
    after (start [0x20, 0x02, 0x00, 0x01] [num (7), num (-2)]) (fun t => (t.reg 2, t.z, t.ip)) = some (num (-7), false, 4) := by decide

/-- V-MATH-4 with XOR's opcode (43 R120): register bytes before typed reads. -/
theorem test_mathXor_order :
    after (start [0x20, 0x02, 0x00, 0x10] [.string [0x78]]) panicView = some (some ⟨.badRegister, 16⟩, 0, false, .panicked) := by decide

/-- The MATH table, -7 and 2. -/
theorem test_mathAnd :
    after (start [0x27, 0x02, 0x00, 0x01] [num (-7), num (2)]) (fun t => (t.reg 2, t.z, t.ip)) = some (num (0), true, 4) := by decide

/-- The MATH table, -2147483648 and -1. -/
theorem test_mathOr :
    after (start [0x28, 0x02, 0x00, 0x01] [num (-2147483648), num (-1)]) (fun t => (t.reg 2, t.z, t.ip)) = some (num (-1), false, 4) := by decide

/-- The MATH table, 3 and -1. -/
theorem test_mathLft :
    after (start [0x29, 0x02, 0x00, 0x01] [num (3), num (-1)]) (fun t => (t.reg 2, t.z, t.ip)) = some (num (-2147483648), false, 4) := by decide

/-- The MATH table, 1 and 32. -/
theorem test_mathLft_count32 :
    after (start [0x29, 0x02, 0x00, 0x01] [num (1), num (32)]) (fun t => (t.reg 2, t.z, t.ip)) = some (num (1), false, 4) := by decide

/-- The MATH table, -7 and 2. -/
theorem test_mathRgt :
    after (start [0x2A, 0x02, 0x00, 0x01] [num (-7), num (2)]) (fun t => (t.reg 2, t.z, t.ip)) = some (num (-2), false, 4) := by decide

/-- The MATH table, -2147483648 and -1. -/
theorem test_mathRgt_minus :
    after (start [0x2A, 0x02, 0x00, 0x01] [num (-2147483648), num (-1)]) (fun t => (t.reg 2, t.z, t.ip)) = some (num (-1), false, 4) := by decide

/-- V-MATH-9. -/
theorem test_mathInc :
    after (start [0x25, 0x00] [num 2147483647]) (fun t => (t.reg 0, t.z, t.ip)) = some (num (-2147483648), false, 2) := by decide

/-- V-MATH-8. -/
theorem test_mathInc_zero :
    after (start [0x25, 0x00] [num (-1)]) (fun t => (t.reg 0, t.z)) = some (num 0, true) := by decide

/-- V-MATH-11. -/
theorem test_mathDec :
    after (startZ [0x26, 0x00] [num 0]) (fun t => (t.reg 0, t.z)) = some (num (-1), false) := by decide

/-- V-STR-3. -/
theorem test_stringStore :
    after (start [0x30, 0x01, 0x03, 0x00, 0x61, 0x00, 0x62] []) (fun t => (t.reg 1, t.ip)) = some (.string [0x61, 0x00, 0x62], 7) := by decide

/-- V-STR-4: at 65532. -/
theorem test_stringStore_wraps :
    after ({ start [] [] with ip := 65532, mem := [(0, 0x48), (1, 0x69), (65532, 0x30), (65533, 0x01), (65534, 0x02)] }) (fun t => (t.reg 1, t.ip)) = some (.string [0x48, 0x69], 2) := by decide

/-- V-STR-6. -/
theorem test_stringPrint :
    after (start [0x31, 0x01] [num 0, .string []]) (fun t => (t.outCh, t.ip)) = some ([.str []], 2) := by decide

/-- V-STR-7. -/
theorem test_stringPrint_number :
    after (start [0x31, 0x01] [num 0, num 1]) panicView = some (some ⟨.typeMismatch, 1⟩, 0, false, .panicked) := by decide

/-- V-STR-11. -/
theorem test_stringConcat :
    after (start [0x32, 0x00, 0x01, 0x02] [num 0, .string [0x61, 0x62], .string [0x63, 0x64]]) (fun t => (t.reg 0, t.ip)) = some (.string [0x61, 0x62, 0x63, 0x64], 4) := by decide

/-- V-STR-8. -/
theorem test_stringConcat_same :
    after (start [0x32, 0x01, 0x01, 0x01] [num 0, .string [0x61, 0x62]]) (fun t => t.reg 1) = some (.string [0x61, 0x62, 0x61, 0x62]) := by decide

/-- V-STR-12. -/
theorem test_stringSystem :
    after (start [0x33, 0x00] [.string [0x6C, 0x73]]) (fun t => (t.hostCh, t.diagCh, t.ip)) = some ([.system [0x6C, 0x73]], [], 2) := by decide

/-- V-STR-13. -/
theorem test_stringSystem_safe :
    after ({ start [0x33, 0x00] [.string [0x6C, 0x73]] with fuzzSafe := true }) (fun t => (t.hostCh, t.diagCh)) = some ([], [.systemSkipped [0x6C, 0x73]]) := by decide

/-- V-STR-15. -/
theorem test_stringToint :
    after (startZ [0x34, 0x02] [num 0, num 0, .string [0x34, 0x32]]) (fun t => (t.reg 2, t.z, t.ip)) = some (num 42, true, 2) := by decide

/-- V-STR-16. -/
theorem test_stringToint_text :
    after (start [0x34, 0x02] [num 0, num 0, .string [0x61, 0x62, 0x63]]) (fun t => (t.reg 2, t.z)) = some (num 0, false) := by decide

/-- The `parse_dec` table of 95: `" -7"`, `"\x09+15 "`, `"--5"`, `"0x10"`, `"12abc"`, `"4294967297"`. -/
theorem test_parseDec :
    [parseDec [0x20, 0x2D, 0x37], parseDec [0x09, 0x2B, 0x31, 0x35, 0x20], parseDec [0x2D, 0x2D, 0x35],
      parseDec [0x30, 0x78, 0x31, 0x30], parseDec [0x31, 0x32, 0x61, 0x62, 0x63],
      parseDec [0x34, 0x32, 0x39, 0x34, 0x39, 0x36, 0x37, 0x32, 0x39, 0x37]] =
      [BitVec.ofInt 32 (-7), 15, 0, 0, 12, 1] := by decide

/-- V-CMP-1. -/
theorem test_cmpReg :
    after (start [0x40, 0x00, 0x01] [num 5, num 5]) (fun t => (t.z, t.ip)) = some (true, 3) := by decide

/-- V-CMP-5. -/
theorem test_cmpReg_variants :
    after (startZ [0x40, 0x00, 0x01] [.string [0x35], num 5]) (fun t => (t.z, t.fault)) = some (false, none) := by decide

/-- V-CMP-8. -/
theorem test_cmpImmediate :
    after (startZ [0x41, 0x00, 0xFF, 0xFF] [num (-1)]) (fun t => (t.z, t.ip)) = some (false, 4) := by decide

/-- V-CMP-9. -/
theorem test_cmpImmediate_equal :
    after (start [0x41, 0x00, 0xFF, 0xFF] [num 65535]) (fun t => t.z) = some (true) := by decide

/-- V-CMP-11. -/
theorem test_cmpString :
    after (start [0x42, 0x00, 0x02, 0x00, 0x61, 0x62] [.string [0x61, 0x62]]) (fun t => (t.z, t.ip)) = some (true, 6) := by decide

/-- V-CMP-12. -/
theorem test_cmpString_prefix :
    after (startZ [0x42, 0x00, 0x01, 0x00, 0x61] [.string [0x61, 0x62]]) (fun t => (t.z, t.ip)) = some (false, 5) := by decide

/-- V-CMP-15. -/
theorem test_isString :
    after (start [0x43, 0x00] [.string []]) (fun t => (t.z, t.ip)) = some (true, 2) := by decide

/-- V-CMP-16. -/
theorem test_isString_number :
    after (startZ [0x43, 0x00] [num 0]) (fun t => t.z) = some (false) := by decide

/-- V-CMP-17. -/
theorem test_isNumber :
    after (start [0x44, 0x00] [num 0]) (fun t => (t.z, t.ip)) = some (true, 2) := by decide

/-- V-CMP-18. -/
theorem test_isNumber_string :
    after (startZ [0x44, 0x00] [.string [0x31]]) (fun t => t.z) = some (false) := by decide

/-- V-MOV-1. -/
theorem test_storeReg :
    after (startZ [0x51, 0x01, 0x00] [num (-9), .string [0x78]]) (fun t => (t.reg 0, t.reg 1, t.z, t.ip)) = some (num (-9), num (-9), true, 3) := by decide

/-- V-MOV-4. -/
theorem test_storeReg_bad :
    after (start [0x51, 0x01, 0x10] []) panicView = some (some ⟨.badRegister, 16⟩, 0, false, .panicked) := by decide

/-- V-MEM-2. -/
theorem test_peek :
    after ({ start [] [num 0, num 65535] with mem := [(0, 0x60), (2, 0x01), (65535, 0x80)] }) (fun t => (t.reg 0, t.ip)) = some (num 128, 3) := by decide

/-- V-MEM-4. -/
theorem test_peek_range :
    after (start [0x60, 0x00, 0x01] [num 0, num 65536]) panicView = some (some ⟨.addressRange, 65536⟩, 0, false, .panicked) := by decide

/-- V-MEM-8. -/
theorem test_poke :
    after (start [0x61, 0x00, 0x01] [num (-1), num 65535]) (fun t => (t.mem, t.ip)) = some ([(0, 0x61), (2, 0x01), (65535, 0xFF)], 3) := by decide

/-- V-MEM-13: typed reads before the range test. -/
theorem test_poke_order :
    after (start [0x61, 0x00, 0x01] [.string [0x78], num (-5)]) panicView = some (some ⟨.typeMismatch, 0⟩, 0, false, .panicked) := by decide

/-- V-MEM-15. -/
theorem test_memcpy_smears :
    after ({ start [] [num 0x101, num 0x100, num 3] with mem := [(0, 0x62), (2, 0x01), (3, 0x02), (256, 0x41), (257, 0x42), (258, 0x43), (259, 0x44)] }) (fun t => (t.mem.readBytes 256 4, t.ip)) = some ([0x41, 0x41, 0x41, 0x41], 4) := by decide

/-- V-MEM-18: the ring of 65535 bytes. -/
theorem test_memcpy_top :
    after ({ start [] [num 65533, num 0x100, num 3] with mem := [(0, 0x62), (2, 0x01), (3, 0x02), (256, 0x41), (257, 0x42), (258, 0x43), (65535, 0x99)] }) (fun t => t.mem.readBytes 65533 4) = some ([0x41, 0x42, 0x99, 0x43]) := by decide

/-- V-STK-1. -/
theorem test_stackPush :
    after (start [0x70, 0x00] [num 7]) (fun t => (t.sp.val, t.slot t.sp, t.ip)) = some (1, 7, 2) := by decide

/-- V-STK-6: at the full stack the type is tested first; V-STK-4: then the bound. -/
theorem test_stackPush_full :
    after { start [0x70, 0x00] [.string [0x37]] with sp := 1024 } panicView =
      some (some ⟨.typeMismatch, 0⟩, 0, false, .panicked) ∧
    after { start [0x70, 0x00] [num 7] with sp := 1024 } panicView =
      some (some ⟨.stackOverflow, 1025⟩, 0, false, .panicked) := by decide

/-- V-STK-7. -/
theorem test_stackPop :
    after ({ startTop [0x71, 0x03] 7 with regs := State.reset.regs.set 3 (.string [0x78]) }) (fun t => (t.reg 3, t.sp.val, t.ip)) = some (num 7, 0, 2) := by decide

/-- V-STK-8. -/
theorem test_stackPop_empty :
    after (start [0x71, 0x03] []) panicView = some (some ⟨.stackUnderflow, 0⟩, 0, false, .panicked) := by decide

/-- V-STK-12. -/
theorem test_stackRet :
    after (startTop [0x72] 65535) (fun t => (t.ip, t.sp.val)) = some (65535, 0) := by decide

/-- V-STK-14: not reduced modulo 65536. -/
theorem test_stackRet_outside :
    after (startTop [0x72] 70000) (fun t => t.ip) = some (0) := by decide

/-- V-STK-17: at 65533, the return address is not reduced. -/
theorem test_stackCall :
    after ({ start [] [] with ip := 65533, mem := [(65533, 0x73), (65534, 0x08)] }) (fun t => (t.slot t.sp, t.sp.val, t.ip)) = some (65536, 1, 8) := by decide

/-- V-STK-21. -/
theorem test_stackCall_full :
    after ({ start [0x73, 0x08, 0x00] [] with sp := 1024 }) panicView = some (some ⟨.stackOverflow, 1025⟩, 0, false, .panicked) := by decide

/-- V-UNK-2. -/
theorem test_unknown :
    after (startZ [0x05] []) (fun t => (t.diagCh, t.z, t.ip, t.icount)) = some ([.unknownOpcode 5], true, 1, 1) := by decide

/-- V-UNK-3. -/
theorem test_unknown_wraps :
    after ({ start [] [] with ip := 65535, mem := [(65535, 0x7F)] }) (fun t => (t.diagCh, t.ip)) = some ([.unknownOpcode 127], 0) := by decide

/-! ### The host's commands -/

/-- V-HOST-1: an empty image; the phase is EMPTY and no PANIC record is made. -/
theorem test_create_empty :
    ((State.reset.accept (.create [] false)).2, (State.reset.accept (.create [] false)).1.phase,
      (State.reset.accept (.create [] false)).1.panicCh) = (.createFailed, .empty, []) := by decide

/-- V-HOST-6: after a panic RUN is refused, and the one PANIC record stays. -/
theorem test_run_after_panic :
    after (start [0x71, 0x00] []) (fun t => ((t.accept (.run 0)).2, (t.accept (.run 0)).1.panicCh)) =
      some (.refused, [⟨.stackUnderflow, 0⟩]) := by decide

/-- V-HOST-4: DUMP gives sixteen `Number(0)` and Z = 0; at reset `sp` is 0 and memory all 0 (10 R34). -/
theorem test_dump :
    (State.reset.accept .dump).2 = .dumped (Vector.replicate 16 (num 0)) false 0 [] [] := by decide

/-- 40 R95, 10 R20: of the stack DUMP shows the entries at or below `sp`, oldest first, and not the slot a pop left. -/
theorem test_dump_stack :
    (((State.reset.pushed 5 (by decide)).pushed 6 (by decide)).pushed 7 (by decide)).popped.entries = [5, 6] := by
  decide

/-- 70 R240, 40 R94: a queued RUN is carried out by the next step; with nothing queued the state stays. -/
theorem test_host_move :
    after { State.reset with pending := [.run 3] } (fun t => (t.phase, t.cap, t.replies)) =
      some (.executing, 3, [.started]) ∧
    after State.reset (fun t => t = State.reset) = some True := ⟨by decide, by simp [after, step, stepWith, State.hostMove, State.reset]⟩

/-- The instruction placed by `withFetchWord` is the one the next step runs: INT_STORE r0, 5. -/
theorem test_withFetchWord : after (State.reset.withFetchWord 32 0x00050001) (fun t => (t.reg 0, t.ip)) = some (num 5, 4) := by
  decide

/-! ### The state after reset meets what the statements ask of states -/

/-- The default opcode map is one of the injective maps the statements speak of (30 R69). -/
theorem default_injective : Config.opc.Injective := by
  have left : ∀ m, Mnemonic.ofByte? Config.opc (Config.opc m) = some m := by intro m; cases m <;> rfl
  intro m m' h
  have e := left m
  rw [h, left m'] at e
  exact (Option.some.inj e).symm

/-! ### Witnesses: the hypotheses of each statement can be met, each clause's at its boundary -/

/-- A running machine with registers of both variants: 5, 0, "ab", -1, 65536, 65535, "", 1 and zeros. -/
def demo : State :=
  start [0x50] [num 5, num 0, .string [0x61, 0x62], num (-1), num 65536, num 65535, .string [], num 1]

/-- The register bytes where BAD_REGISTER begins and ends. -/
abbrev ByteEdges : Prop := BadByte 16 ∧ BadByte 255 ∧ ¬ BadByte 15 ∧ (0 : Byte) = regByte 0 ∧ (15 : Byte) = regByte 15

/-- `demo` holds Numbers and Strings, the extremes and 0 among them. -/
abbrev BothVariants : Prop :=
  demo.regs[(0 : Reg)] = num 5 ∧ demo.regs[(1 : Reg)] = .number 0 ∧ demo.regs[(2 : Reg)] = .string [0x61, 0x62] ∧
  demo.regs[(3 : Reg)] = num (-1) ∧ demo.regs[(6 : Reg)] = .string [] ∧ demo.regs[(15 : Reg)] = num 0

theorem byteEdges : ByteEdges := by decide

theorem bothVariants : BothVariants := by decide

/-- Register bytes and operands that meet, one after another, every clause of a rule with register operands. -/
abbrev OperandEdges : Prop := Config.opc.Injective ∧ ByteEdges ∧ BothVariants

theorem operandEdges : OperandEdges := ⟨default_injective, byteEdges, bothVariants⟩

theorem witness_DefaultOpcodeMapAndFallback : (∀ m, Config.opc m ≠ 0xFF) ∧ ∀ m, Config.opc m ≠ 0x05 :=
  ⟨by intro m; cases m <;> decide, by intro m; cases m <;> decide⟩

theorem witness_DecodeInvertsEncode :
    Config.opc.Injective ∧ (Instr.stringStore 255 []).wellFormed Config.opc = true ∧
    (Instr.cmpString 0 (List.replicate 65535 0)).wellFormed Config.opc = true ∧
    (Instr.unknown 0xFF).wellFormed Config.opc = true :=
  ⟨default_injective, by decide, by rw [Instr.wellFormed, literalFits, List.length_replicate]; rfl, by decide⟩

theorem witness_EncodeInvertsDecode :
    decodeWith Config.opc [0x30, 0x01, 0x02, 0x00, 0x48, 0x69, 0x07] = .ok (.stringStore 1 [0x48, 0x69], [0x07]) := rfl

/-- Both branches: the byte read is the one stored, across the wrap, and it is another one. -/
theorem witness_FetchWrapsAndSeesStores :
    demo.mem.wf = true ∧ 1 < 2 ∧ ((65535 : Addr).toNat + 1) % 65536 = (0 : Addr).toNat ∧
    ((65535 : Addr).toNat + 0) % 65536 ≠ (0 : Addr).toNat := by decide

/-- All three clauses: a panic; the end of a run by EXIT and by the cap; and an instruction in the middle of it. -/
theorem witness_StepRunsDecodedInstruction :
    Config.opc.Injective ∧ demo.phase = .executing ∧ demo.running = true ∧ Instr.nop.wellFormed Config.opc = true ∧
    demo.mem.readBytes demo.ip (encodeWith Config.opc .nop).length = encodeWith Config.opc .nop ∧
    (∃ t, exec .nop demo = .next t ∧ t.phase ≠ .panicked ∧ ¬ (0 < t.cap ∧ t.cap ≤ t.icount + 1) ∧ t.running = true) ∧
    (∃ t, exec .nop { demo with cap := 5, icount := 4 } = .next t ∧ 0 < t.cap ∧ t.cap ≤ t.icount + 1) ∧
    (∃ t, exec .nop { demo with cap := 5, icount := 3 } = .next t ∧ ¬ (0 < t.cap ∧ t.cap ≤ t.icount + 1)) ∧
    (∃ t, exec .exit demo = .next t ∧ t.phase ≠ .panicked ∧ t.running = false) ∧
    (∃ t, exec .stackRet demo = .next t ∧ t.phase = .panicked) :=
  ⟨default_injective, by decide, by decide, by decide, by decide, ⟨_, rfl, by decide, by decide, by decide⟩,
    ⟨_, rfl, by decide, by decide⟩, ⟨_, rfl, by decide⟩, ⟨_, rfl, by decide, by decide⟩, ⟨_, rfl, by decide⟩⟩

/-- A run that has started: JUMP_TO 0 with a cap of 1, and one of 5. -/
def capped (cap : Int) : State := { start [0x10, 0x00, 0x00] [] with cap := cap }

theorem capped_inv {cap : Int} (h : 0 < cap) : (capped cap).Inv :=
  ⟨by simp only [capped]; decide, by simp only [capped]; decide, by simp only [capped]; decide,
    by simp only [capped]; decide, fun _ _ => by simpa [capped, start, State.reset] using h,
    fun _ => by simpa [capped, start, State.reset] using Int.le_of_lt h⟩

theorem witness_CappedRunEnds :
    (capped 1).Inv ∧ (capped 5).Inv ∧ (capped 1).phase = .executing ∧ 0 < (capped 1).cap ∧ 0 < (capped 5).cap :=
  ⟨capped_inv (by decide), capped_inv (by decide), by decide, by decide, by decide⟩

theorem witness_ExitEndsRunNopIsInert :
    (start [0x00] []).phase = .executing ∧ (start [0x00] []).running = true ∧
    (start [0x00] []).mem.read (start [0x00] []).ip = Config.opc .exit ∧ demo.running = true ∧
    demo.mem.read demo.ip = Config.opc .nop ∧ demo.cap ≤ 0 ∧
    ((start [0x00] []).pushed 7 (by decide)).phase = .executing ∧
    ((start [0x00] []).pushed 7 (by decide)).mem.read ((start [0x00] []).pushed 7 (by decide)).ip = Config.opc .exit ∧
    0 < ((start [0x00] []).pushed 7 (by decide)).sp.val := by decide

theorem witness_IntStoreWritesImmediate : OperandEdges := operandEdges

theorem witness_IntPrintEmitsNumber : OperandEdges := operandEdges

theorem witness_IntToStringConverts : OperandEdges := operandEdges

theorem witness_IntRandomWritesDrawnValue : OperandEdges := operandEdges

/-- Every sign, the rest of a text after its digits, and a text with no number. -/
theorem witness_ParseDecimalReadsPrefix :
    (∀ b ∈ ([0x20, 0x0D] : Str), SpaceByte b) ∧ AllDigits [0x30, 0x39] ∧ AllDigits [] ∧
    ([] : Str) ∈ ([[], [0x2D], [0x2B]] : List Str) ∧ ([0x2D] : Str) ∈ ([[], [0x2D], [0x2B]] : List Str) ∧
    ([0x2B] : Str) ∈ ([[], [0x2D], [0x2B]] : List Str) ∧
    (∀ b, ([0x3A] : Str).head? = some b → ¬ (0x30 ≤ b.toNat ∧ b.toNat ≤ 0x39)) ∧
    (∀ b, ([0x61] : Str).head? = some b → ¬ SpaceByte b ∧ b ≠ 0x2D ∧ b ≠ 0x2B) := by
  refine ⟨by decide, by unfold AllDigits; decide, by unfold AllDigits; decide, by decide, by decide, by decide, ?_, ?_⟩ <;>
    (intro b h; rw [← Option.some.inj h]; decide)

theorem witness_JumpsSetInstructionPointer :
    Config.opc.Injective ∧ demo.z = false ∧ ({ demo with z := true } : State).z = true :=
  ⟨default_injective, by decide, by decide⟩

theorem witness_AddSubMulWrap : OperandEdges ∧ ¬ False := ⟨operandEdges, id⟩

/-- The divisor is 0 in one clause and not in the other. -/
theorem witness_DivTruncatesOrPanics :
    OperandEdges ∧ demo.regs[(1 : Reg)] = .number 0 ∧ demo.regs[(7 : Reg)] = .number 1 ∧ ¬ ((1 : Number) = 0) :=
  ⟨operandEdges, by decide⟩

theorem witness_BitwiseActsOnPatterns : OperandEdges ∧ ¬ False := ⟨operandEdges, id⟩

theorem witness_ShiftsUseLowFiveBits : OperandEdges ∧ ¬ False := ⟨operandEdges, id⟩

theorem witness_IncDecWrap : OperandEdges := operandEdges

/-- The shortest and the longest literal. -/
theorem witness_StringStoreInstallsLiteral :
    OperandEdges ∧ ([] : Str).length = (0 : Byte).toNat + 256 * (0 : Byte).toNat ∧
    (List.replicate 65535 (0 : Byte)).length = (255 : Byte).toNat + 256 * (255 : Byte).toNat :=
  ⟨operandEdges, by decide, List.length_replicate⟩

theorem witness_StringPrintEmitsString : OperandEdges := operandEdges

theorem witness_ConcatJoinsSources : OperandEdges := operandEdges

theorem witness_StringSystemReports :
    OperandEdges ∧ demo.fuzzSafe = false ∧ ({ demo with fuzzSafe := true } : State).fuzzSafe = true :=
  ⟨operandEdges, by decide⟩

/-- A text that begins with neither white space, sign nor digit, and the empty text. -/
theorem witness_StringToIntConverts :
    OperandEdges ∧ (∀ c, ([] : Str).head? = some c → False) ∧
    (∀ c, ([0x61, 0x62] : Str).head? = some c →
      ¬ SpaceByte c ∧ c ≠ 0x2D ∧ c ≠ 0x2B ∧ ¬ (0x30 ≤ c.toNat ∧ c.toNat ≤ 0x39)) :=
  ⟨operandEdges, (fun _ h => nomatch h), fun c h => by rw [← Option.some.inj h]; decide⟩

theorem witness_CmpRegComparesWords : OperandEdges := operandEdges

theorem witness_CmpImmediateAndStringCompareOperand :
    OperandEdges ∧ ([0x61, 0x62] : Str).length = (2 : Byte).toNat + 256 * (0 : Byte).toNat :=
  ⟨operandEdges, by decide⟩

theorem witness_VariantTestsSetZ : OperandEdges := operandEdges

theorem witness_StoreRegCopiesWord : OperandEdges := operandEdges

theorem witness_MemoryWriteThenRead : demo.mem.wf = true ∧ (1 : Addr) ≠ 0 := by decide

/-- The addresses just inside and just outside the range. -/
abbrev AddressEdges : Prop :=
  demo.regs[(1 : Reg)] = num 0 ∧ (num 0 = .number 0 ∧ (0 : Number).toInt = (0 : Addr).toNat) ∧
  demo.regs[(5 : Reg)] = .number 65535 ∧ (65535 : Number).toInt = (65535 : Addr).toNat ∧
  demo.regs[(4 : Reg)] = .number 65536 ∧ 65535 < (65536 : Number).toInt ∧
  demo.regs[(3 : Reg)] = num (-1) ∧ (BitVec.ofInt 32 (-1)).toInt < 0

theorem addressEdges : AddressEdges := by decide

theorem witness_PeekLoadsByte : OperandEdges ∧ AddressEdges := ⟨operandEdges, addressEdges⟩

theorem witness_PokeStoresLowByte : OperandEdges ∧ AddressEdges := ⟨operandEdges, addressEdges⟩

/-- The sign tests: -1 stops, 0 and 65536 do not. -/
theorem witness_MemcpyCopiesAscending :
    OperandEdges ∧ AddressEdges ∧ 0 ≤ (0 : Number).toInt ∧ 0 ≤ (65536 : Number).toInt :=
  ⟨operandEdges, addressEdges, by decide⟩

/-- Disjoint ranges, one of them around the end of the ring; and a destination one above the source, up to its end. -/
theorem witness_MemcpyDisjointCopiesOverlapRepeats :
    demo.mem.wf = true ∧ 3 ≤ 65535 ∧ (∀ i j : Nat, i < 3 → j < 3 → (65533 + i) % 65535 ≠ (512 + j) % 65535) ∧
    (3 : Nat) = 2 + 1 ∧ 2 + 65532 < 65535 :=
  ⟨by decide, by decide, fun i j hi hj => by omega, rfl, by decide⟩

/-- `demo` with another top byte, which still copies. -/
def demoTop : State := { demo with mem := demo.mem.write 65535 7 }

theorem witness_MemcpyCannotReachTopByte :
    demo.mem.wf = true ∧ demoTop.mem.wf = true ∧ demoTop = { demo with mem := demoTop.mem } ∧
    (∀ c : Addr, c ≠ 65535 → demo.mem.read c = demoTop.mem.read c) ∧
    (∃ t, exec (.memcpy 0 5 7) demo = .next t) ∧ (∃ t, exec (.memcpy 0 5 7) demoTop = .next t) ∧
    demo.regs[(5 : Reg)] = .number 65535 ∧ (65535 : Number).toInt = 65535 ∧
    demo.regs[(1 : Reg)] = .number 0 ∧ (0 : Number).toInt = 0 ∧ demo.regs[(0 : Reg)] = num 5 :=
  ⟨by decide, by decide, rfl, fun c h => (Memory.read_write_ne _ (Ne.symm h) _).symm, ⟨_, rfl⟩, ⟨_, rfl⟩, by decide,
    by decide, by decide, by decide, by decide⟩

theorem witness_PokePeekRoundTrip :
    demo.mem.wf = true ∧ demo.regs[(3 : Reg)] = num (-1) ∧ demo.regs[(5 : Reg)] = .number 65535 ∧
    0 ≤ (65535 : Number).toInt ∧ (65535 : Number).toInt ≤ 65535 ∧
    ∃ u, exec (.poke (regByte 3) (regByte 5)) demo = .next u ∧ u.mem = u.mem ∧ u.regs[(5 : Reg)] = .number 65535 :=
  ⟨by decide, by decide, by decide, by decide, by decide, _, rfl, rfl, by decide⟩

/-- The last free slot, and the full stack. -/
theorem witness_PushStoresNumber :
    OperandEdges ∧ ({ demo with sp := 1023 } : State).sp.val < 1024 ∧ ({ demo with sp := 1024 } : State).sp.val = 1024 :=
  ⟨operandEdges, by decide⟩

theorem witness_PopLoadsNumber :
    OperandEdges ∧ demo.sp.val = 0 ∧ ({ demo with sp := 1 } : State).sp.val = 0 + 1 ∧
    ({ demo with sp := 1024 } : State).sp.val = 1023 + 1 ∧ 1023 < 1024 :=
  ⟨operandEdges, by decide⟩

/-- Popped values at the two ends of the range and just outside each. -/
theorem witness_ReturnGoesToPoppedAddress :
    demo.sp.val = 0 ∧ (startTop [] 0).sp.val = 0 + 1 ∧ ((startTop [] 0).stack[0]).toInt = (0 : Addr).toNat ∧
    ((startTop [] 65535).stack[0]).toInt = (65535 : Addr).toNat ∧ 65535 < ((startTop [] 65536).stack[0]).toInt ∧
    ((startTop [] (-1)).stack[0]).toInt < 0 := by decide

theorem witness_CallPushesReturnAddress :
    Config.opc.Injective ∧ ({ demo with sp := 1024 } : State).sp.val = 1024 ∧
    ({ demo with sp := 1023 } : State).sp.val < 1024 :=
  ⟨default_injective, by decide⟩

/-- The slot above `sp` is stale: the call left another value there. -/
theorem witness_PushPopAndCallReturnMatch :
    demo.regs[(0 : Reg)] = num 5 ∧ demo.sp.val < 1024 ∧ (∃ t, exec (.stackPush (regByte 0)) demo = .next t) ∧
    (∃ t u : State, exec (.stackCall 8) demo = .next t ∧ u.sp = t.sp ∧
      (∀ (k : Nat) (h : k < 1024), k < u.sp.val → u.stack[k] = t.stack[k]) ∧ u.stack[1] ≠ t.stack[1]) := by
  refine ⟨by decide, by decide, ⟨_, rfl⟩, _, { demo.pushed (returnAddress demo.ip) (by decide) with
    ip := 8, stack := (demo.pushed (returnAddress demo.ip) (by decide)).stack.set 1 7 }, rfl, rfl, ?_, by decide⟩
  intro k _ hk
  obtain rfl : k = 0 := Nat.lt_one_iff.mp hk
  rfl

theorem witness_UnknownOpcodeIsReported :
    (start [0xFF] []).phase = .executing ∧ (start [0xFF] []).running = true ∧ (∀ m, Config.opc m ≠ 0xFF) ∧
    (start [0xFF] []).mem.read (start [0xFF] []).ip = 0xFF ∧ (start [0xFF] []).cap ≤ 0 :=
  ⟨by decide, by decide, witness_DefaultOpcodeMapAndFallback.1, by decide, by decide⟩

theorem witness_PanicUndoesInstruction :
    (start [0x72] []).phase ≠ .panicked ∧
    (∃ t, exec .stackRet (start [0x72] []) = .next t ∧ t.phase = .panicked) ∧ Config.opc.Injective ∧
    (start [0x72] []).phase = .executing ∧ (start [0x72] []).running = true ∧
    Instr.stackRet.wellFormed Config.opc = true ∧
    (start [0x72] []).mem.readBytes (start [0x72] []).ip (encodeWith Config.opc .stackRet).length =
      encodeWith Config.opc .stackRet :=
  ⟨by decide, ⟨_, rfl, by decide⟩, default_injective, by decide, by decide, by decide, by decide⟩

/-- One panic of each cause. -/
theorem witness_PanicCausesAndInfo :
    demo.phase ≠ .panicked ∧ (∃ t, exec (.intStore 16 5) demo = .next t ∧ t.phase = .panicked) ∧
    (∃ t, exec (.intPrint 2) demo = .next t ∧ t.phase = .panicked) ∧
    (∃ t, exec (.mathDiv 0 0 1) demo = .next t ∧ t.phase = .panicked) ∧
    (∃ t, exec (.stackCall 0) { demo with sp := 1024 } = .next t ∧ t.phase = .panicked) ∧
    (∃ t, exec .stackRet demo = .next t ∧ t.phase = .panicked) ∧
    (∃ t, exec (.peek 0 4) demo = .next t ∧ t.phase = .panicked) ∧
    (∃ t, exec (.memcpy 0 3 1) demo = .next t ∧ t.phase = .panicked) :=
  ⟨by decide, ⟨_, rfl, by decide⟩, ⟨_, rfl, by decide⟩, ⟨_, rfl, by decide⟩, ⟨_, rfl, by decide⟩, ⟨_, rfl, by decide⟩,
    ⟨_, rfl, by decide⟩, ⟨_, rfl, by decide⟩⟩

/-- A machine that has panicked, with these commands to come. -/
def panicked (pending : List Command) : State :=
  { demo.takePanic ⟨.stackUnderflow, 0⟩ with pending := pending }

theorem witness_PanicIsSticky :
    (panicked [.run 0, .create [0] false]).phase = .panicked ∧
    (∃ t, stepWith Config.opc (panicked [.run 0, .create [0] false]) = .next t) ∧
    (∀ c rest, (panicked [.run 0, .create [0] false]).pending = c :: rest → c = .dump ∨ ∃ cap, c = .run cap) ∧
    (∀ c rest, (panicked []).pending = c :: rest → c = .dump ∨ ∃ cap, c = .run cap) :=
  ⟨by decide, ⟨_, rfl⟩, fun _ _ h => by cases h; exact .inr ⟨0, rfl⟩, (fun _ _ h => nomatch h)⟩

/-- Both ways: a register that is no destination, and a destination when the instruction panics. -/
theorem witness_OnlyDestinationRegisterChanges :
    (∃ t, exec (.mathAdd 2 0 1) demo = .next t) ∧ destination (.mathAdd 2 0 1) ≠ some (regByte 3) ∧
    (∃ t, exec (.mathAdd 0 2 1) demo = .next t ∧ demo.phase ≠ .panicked ∧ t.phase = .panicked) :=
  ⟨⟨_, rfl⟩, by decide, ⟨_, rfl, by decide, by decide⟩⟩

theorem witness_OnlyMathAndCompareWriteZ :
    (∃ t, exec (.stringToint 2) demo = .next t) ∧ writesZ (.stringToint 2) = false := ⟨⟨_, rfl⟩, rfl⟩

/-- One instruction of each of the three cases. -/
theorem witness_OnlyStackInstructionsMoveSp :
    (∃ t, exec .nop demo = .next t) ∧ (∃ t, exec (.stackPush 0) demo = .next t ∧ t.sp.val = 1) ∧
    (∃ t, exec .stackRet (startTop [] 9) = .next t ∧ t.sp.val = 0) :=
  ⟨⟨_, rfl⟩, ⟨_, rfl, by decide⟩, ⟨_, rfl, by decide⟩⟩

/-- A POKE to address 65535 and the byte below it; a form that stores nothing. -/
theorem witness_OnlyStoredBytesChange :
    (∃ t, exec (.poke 3 5) demo = .next t) ∧ ¬ StoresTo (.poke 3 5) demo 65534 ∧ StoresTo (.poke 3 5) demo 65535 ∧
    (∃ t, exec (.peek 0 5) demo = .next t) ∧ ¬ StoresTo (.peek 0 5) demo 65535 := by
  refine ⟨⟨_, rfl⟩, ?_, ⟨5, 65535, rfl, rfl, rfl⟩, ⟨_, rfl⟩, id⟩
  rintro ⟨ar, a, hb, ha, ht⟩
  have : ar = 5 := by
    have h := ar.isLt
    have e := congrArg BitVec.toNat hb
    simp [regByte] at e
    exact Fin.ext (by omega)
  subst this
  have e : (65535 : Number) = a := by
    have h : demo.regs[(5 : Reg)] = .number 65535 := rfl
    exact Value.number.inj (h.symm.trans ha)
  rw [← e] at ht
  exact absurd ht (by decide)

theorem witness_ControlStateAndChannelsFrame :
    demo.phase ≠ .panicked ∧ (∃ t, exec (.intPrint 0) demo = .next t ∧ t.phase ≠ .panicked) ∧ Instr.intPrint 0 ≠ .exit ∧
    (∃ t, exec (.intPrint 2) demo = .next t ∧ t.phase = .panicked) :=
  ⟨by decide, ⟨_, rfl, by decide⟩, nofun, ⟨_, rfl, by decide⟩⟩

theorem witness_InstructionPointerAfterInstruction :
    demo.phase ≠ .panicked ∧ (∃ t, exec (.intPrint 0) demo = .next t ∧ t.phase ≠ .panicked) ∧
    setsIp (.intPrint 0) = false ∧ (∃ t, exec (.intPrint 2) demo = .next t ∧ t.phase = .panicked) ∧
    (∃ t, exec (.jumpZ 9) demo = .next t ∨ exec (.jumpNz 9) demo = .next t) :=
  ⟨by decide, ⟨_, rfl, by decide⟩, rfl, ⟨_, rfl, by decide⟩, ⟨_, .inl rfl⟩⟩

/-- The shortest and the longest legal image, and the illegal ones beside them; and a run going on. -/
theorem witness_CreateLoadsImageOrFails :
    demo.phase = .executing ∧ State.reset.phase ≠ .executing ∧ 1 ≤ [(0 : Byte)].length ∧ [(0 : Byte)].length ≤ 65535 ∧
    (List.replicate 65535 (0 : Byte)).length ≤ 65535 ∧ ([] : List Byte).length = 0 ∧
    65535 < (List.replicate 65536 (0 : Byte)).length :=
  ⟨by decide, by decide, by decide, by decide, Nat.le_of_eq List.length_replicate, rfl,
    by rw [List.length_replicate]; decide⟩

theorem witness_EveryLegalImageIsAProgram :
    (∃ t, State.reset.accept (.create [0x50] false) = (t, .created)) ∧ State.reset.phase ≠ .executing ∧
    1 ≤ [(0x50 : Byte)].length ∧ [(0x50 : Byte)].length ≤ 65535 :=
  ⟨⟨_, rfl⟩, by decide, by decide, by decide⟩

/-- The five phases. -/
theorem witness_RunDumpDestroyCommands :
    State.reset.phase = .loaded ∧ ({ State.reset with phase := .stopped } : State).phase = .stopped ∧
    (State.reset.accept .destroy).1.phase = .empty ∧ (panicked []).phase = .panicked ∧ demo.phase = .executing ∧
    State.reset.phase ≠ .executing ∧ (panicked []).phase ≠ .executing ∧ State.reset.draws = (panicked []).draws ∧
    State.reset.pending = (panicked []).pending ∧ State.reset.replies = (panicked []).replies := by decide

theorem witness_HostActsOnlyOutsideRun :
    State.reset.phase ≠ .executing ∧ State.reset.pending = [] ∧
    ({ State.reset with pending := [.dump] } : State).pending = .dump :: [] ∧ demo.phase = .executing ∧
    ∃ t, stepWith Config.opc demo = .next t :=
  ⟨by decide, by decide, by decide, by decide, ⟨_, rfl⟩⟩

theorem witness_ResetMeetsInvariant : 1 ≤ [(0 : Byte)].length ∧ (List.replicate 65535 (0 : Byte)).length ≤ 65535 :=
  ⟨by decide, Nat.le_of_eq List.length_replicate⟩

theorem witness_StepKeepsInvariant : (capped 5).Inv ∧ ∃ t, stepWith Config.opc (capped 5) = .next t :=
  ⟨capped_inv (by decide), _, rfl⟩

/-- Two different states, alike below `sp`, that both take a step. -/
theorem witness_StaleStackSlotsUnobservable :
    AlikeBelowSp demo { demo with stack := demo.stack.set 0 7 } ∧ demo.stack[0] ≠ (demo.stack.set 0 7)[0] ∧
    (∃ t, stepWith Config.opc demo = .next t) ∧
    ∃ t, stepWith Config.opc { demo with stack := demo.stack.set 0 7 } = .next t :=
  ⟨⟨rfl, fun k h => absurd h (Nat.not_lt_zero k)⟩, by decide, ⟨_, rfl⟩, ⟨_, rfl⟩⟩

end Sys2Proof.Tests
end

section
namespace Sys2Proof.Machine

/-! ### Decoding, register bytes and panics, in the words the statements use -/

/-- A byte sequence whose operand bytes read as `i` decodes as `i` under every injective map (30 R68). -/
theorem decodesAs_of_decodeOperands {m : Mnemonic} {byte : Byte} {operands : List Byte} {i : Instr}
    (hbyte : Config.opc m = byte) (hops : ∀ rest, decodeOperands m (operands ++ rest) = .ok (i, rest)) :
    DecodesAs m byte operands i :=
  ⟨hbyte, fun _ hinj rest => (decodeWith_opc hinj m _).trans (hops rest)⟩

@[simp] theorem withReg_regByte (r : Reg) (s : State) (k : Reg → Result) : withReg (regByte r) s k = k r :=
  withReg_reg r s k

/-- The record update that `Raises` writes out is the panic state of `raise` (60 R204). -/
theorem raises_iff {i : Instr} {s : State} {c : Cause} {info : Int} :
    Raises i s c info ↔ exec i s = raise s c info := Iff.rfl

/-- Copying a register to itself changes no register (46 R160). -/
@[simp] theorem State.setReg_reg_self (s : State) (r : Reg) : s.setReg r (s.reg r) = s := by
  simp [State.setReg, State.reg]

/-! ### STORE_REG -/

theorem exec_storeReg (b1 b2 : Byte) (s : State) : exec (.storeReg b1 b2) s =
    withReg b1 s fun d => withReg b2 s fun r => .next ((s.setReg d (s.reg r)).advance 3) := rfl

theorem storeReg_raises_of_bad_destination {b1 : Byte} (h : BadByte b1) (s : State) (b2 : Byte) :
    Raises (.storeReg b1 b2) s .badRegister b1.toNat := by
  rw [raises_iff, exec_storeReg, withReg_of_bad h]

theorem storeReg_raises_of_bad_source {b2 : Byte} (h : BadByte b2) (s : State) (d : Reg) :
    Raises (.storeReg (regByte d) b2) s .badRegister b2.toNat := by
  rw [raises_iff, exec_storeReg, withReg_regByte, withReg_of_bad h]

theorem exec_storeReg_regByte (s : State) (d r : Reg) :
    exec (.storeReg (regByte d) (regByte r)) s = .next ((s.setReg d (s.reg r)).advance 3) := by
  rw [exec_storeReg, withReg_regByte, withReg_regByte]

/-- Settles O30: decoding, the two register checks in order, and the copy, from the lemmas above. -/
theorem storeRegCopiesWord : Obligations.StoreRegCopiesWord := by
  refine ⟨fun b1 b2 => decodesAs_of_decodeOperands rfl fun _ => rfl,
    fun s b1 b2 h => storeReg_raises_of_bad_destination h s b2,
    fun s d b2 h => storeReg_raises_of_bad_source h s d,
    fun s d r => exec_storeReg_regByte s d r, fun s r => ?_⟩
  have hcopy := exec_storeReg_regByte s r r
  rwa [State.setReg_reg_self] at hcopy

/-! ### The register frame -/

/-- What an instruction may do to the registers on its way from `s` to `t`: keep them all, or, staying out of
the panic phase, write one word to the register its destination byte names (10 R13, R15). -/
def RegsWritten (i : Instr) (s t : State) : Prop :=
  t.regs = s.regs ∨
  (t.phase = s.phase ∧ ∃ (d : Reg) (v : Value), destination i = some (regByte d) ∧ t.regs = s.regs.set d v)

section
variable {i : Instr} {s t : State}

theorem RegsWritten.of_set {d : Reg} {v : Value} (hi : destination i = some (regByte d)) (hp : t.phase = s.phase)
    (ht : t.regs = s.regs.set d v) : RegsWritten i s t := .inr ⟨hp, d, v, hi, ht⟩

theorem RegsWritten.of_math {r1 : Byte} {n : Nat} (hi : destination i = some r1) (h : MathEnd r1 n s t) :
    RegsWritten i s t := by
  obtain ⟨d, _, rfl, rfl⟩ := h
  exact .of_set hi rfl rfl

/-- A register that is not the destination keeps its word. -/
theorem RegsWritten.eq_of_not_destination (h : RegsWritten i s t) {r : Reg}
    (hr : destination i ≠ some (regByte r)) : t.regs[r] = s.regs[r] := by
  obtain ht | ⟨_, d, v, hd, ht⟩ := h
  · rw [ht]
  · have hne : d ≠ r := by
      rintro rfl
      exact hr hd
    simp only [ht, Fin.getElem_fin]
    exact Vector.getElem_set_ne _ _ (Fin.val_ne_of_ne hne)

/-- An instruction that moves the phase writes no register. -/
theorem RegsWritten.eq_of_phase_ne (h : RegsWritten i s t) (hp : t.phase ≠ s.phase) : t.regs = s.regs :=
  h.resolve_right fun ⟨hsame, _⟩ => hp hsame

end

/-- Every instruction that runs to its end writes at most its destination register. -/
theorem exec_ends_regsWritten (i : Instr) (s : State) : Ends i (RegsWritten i s) s (exec i s) := by
  cases i with
  | exit => exact (execExit_ends s).mono (by rintro _ rfl; exact .inl rfl)
  | nop => exact (execNop_ends s).mono (by rintro _ rfl; exact .inl rfl)
  | intStore r1 imm => exact (execIntStore_ends r1 imm s).mono (by rintro _ ⟨_, rfl, rfl⟩; exact .of_set rfl rfl rfl)
  | intPrint r1 => exact (execIntPrint_ends r1 s).mono (by rintro _ ⟨_, rfl⟩; exact .inl rfl)
  | intTostring r1 => exact (execIntTostring_ends r1 s).mono (by
      rintro _ ⟨_, _, rfl, rfl⟩; exact .of_set rfl rfl rfl)
  | intRandom r1 => exact (execIntRandom_ends r1 s).mono (by rintro _ ⟨_, rfl, rfl⟩; exact .of_set rfl rfl rfl)
  | jumpTo imm => exact (execJumpTo_ends imm s).mono (by rintro _ rfl; exact .inl rfl)
  | jumpZ imm => exact (execJumpZ_ends imm s).mono (by rintro _ (rfl | rfl) <;> exact .inl rfl)
  | jumpNz imm => exact (execJumpNz_ends imm s).mono (by rintro _ (rfl | rfl) <;> exact .inl rfl)
  | mathXor r1 r2 r3 | mathAdd r1 r2 r3 | mathSub r1 r2 r3 | mathMul r1 r2 r3 | mathAnd r1 r2 r3
  | mathOr r1 r2 r3 | mathLft r1 r2 r3 | mathRgt r1 r2 r3 =>
    exact (threeRegister_ends _ r1 r2 r3 s).mono fun _ => .of_math rfl
  | mathDiv r1 r2 r3 => exact (execMathDiv_ends r1 r2 r3 s).mono fun _ => .of_math rfl
  | mathInc r1 | mathDec r1 => exact (oneRegister_ends _ r1 s).mono fun _ => .of_math rfl
  | stringStore r1 lit => exact (execStringStore_ends r1 lit s).mono (by
      rintro _ ⟨_, rfl, rfl⟩; exact .of_set rfl rfl rfl)
  | stringPrint r1 => exact (execStringPrint_ends r1 s).mono (by rintro _ ⟨_, rfl⟩; exact .inl rfl)
  | stringConcat r1 r2 r3 => exact (execStringConcat_ends r1 r2 r3 s).mono (by
      rintro _ ⟨_, _, rfl, rfl⟩; exact .of_set rfl rfl rfl)
  | stringSystem r1 => exact (execStringSystem_ends r1 s).mono (by
      rintro _ ⟨_, ⟨_, rfl⟩ | ⟨_, rfl⟩⟩ <;> exact .inl rfl)
  | stringToint r1 => exact (execStringToint_ends r1 s).mono (by
      rintro _ ⟨_, _, rfl, rfl⟩; exact .of_set rfl rfl rfl)
  | cmpReg r1 r2 => exact (execCmpReg_ends r1 r2 s).mono (by rintro _ ⟨_, rfl⟩; exact .inl rfl)
  | cmpImmediate r1 imm => exact (execCmpImmediate_ends r1 imm s).mono (by rintro _ ⟨_, rfl⟩; exact .inl rfl)
  | cmpString r1 lit => exact (execCmpString_ends r1 lit s).mono (by rintro _ ⟨_, rfl⟩; exact .inl rfl)
  | isString r1 => exact (execIsString_ends r1 s).mono (by rintro _ ⟨_, rfl⟩; exact .inl rfl)
  | isNumber r1 => exact (execIsNumber_ends r1 s).mono (by rintro _ ⟨_, rfl⟩; exact .inl rfl)
  | storeReg r1 r2 => exact (execStoreReg_ends r1 r2 s).mono (by
      rintro _ ⟨_, _, rfl, rfl⟩; exact .of_set rfl rfl rfl)
  | peek r1 r2 => exact (execPeek_ends r1 r2 s).mono (by rintro _ ⟨_, _, rfl, rfl⟩; exact .of_set rfl rfl rfl)
  | poke r1 r2 => exact (execPoke_ends r1 r2 s).mono (by
      rintro _ ⟨_, _, _, _, _, _, _, rfl⟩; exact .inl rfl)
  | memcpy r1 r2 r3 => exact (execMemcpy_ends r1 r2 r3 s).mono (by
      rintro _ ⟨_, _, _, _, _, _, _, _, _, _, rfl⟩; exact .inl rfl)
  | stackPush r1 => exact (execStackPush_ends r1 s).mono (by rintro _ ⟨_, _, rfl⟩; exact .inl rfl)
  | stackPop r1 => exact (execStackPop_ends r1 s).mono (by rintro _ ⟨_, _, rfl, rfl⟩; exact .of_set rfl rfl rfl)
  | stackRet => exact (execStackRet_ends s).mono (by rintro _ ⟨_, rfl⟩; exact .inl rfl)
  | stackCall imm => exact (execStackCall_ends imm s).mono (by rintro _ ⟨_, rfl⟩; exact .inl rfl)
  | unknown b => exact (execUnknown_ends b s).mono (by rintro _ rfl; exact .inl rfl)

/-- A panic keeps every register too, so the frame holds of whatever state an instruction answers (60 R204). -/
theorem exec_regsWritten {i : Instr} {s t : State} (h : exec i s = .next t) : RegsWritten i s t := by
  have hends := exec_ends_regsWritten i s
  rw [h] at hends
  obtain ⟨p, _, rfl⟩ | ht := hends.of_next
  · exact .inl (s.takePanic_regs p)
  · exact ht

/-- Settles O47: a register that is no destination is not the one written; an instruction that panics has moved
the phase, so it has written none. -/
theorem onlyDestinationRegisterChanges : Obligations.OnlyDestinationRegisterChanges := by
  intro s t i r hexec hr
  have hwritten := exec_regsWritten hexec
  obtain hdest | ⟨hs, ht⟩ := hr
  · exact hwritten.eq_of_not_destination hdest
  · rw [hwritten.eq_of_phase_ne (by rw [ht]; exact hs.symm)]

end Sys2Proof.Machine
end

section
namespace Sys2Proof.Machine

/-! ### Memory: a write and a read -/

/-- Settles O31: the read-after-write laws and the canonical form a write keeps. -/
theorem memoryWriteThenRead : Obligations.MemoryWriteThenRead := by
  intro m a v
  exact ⟨fun hwf => ⟨m.read_write_same hwf a v, m.write_wf hwf a v⟩, fun _ hne => m.read_write_ne hne.symm v⟩

/-! ### The memory frame -/

/-- On the way from `s` to `t` every byte that `i` does not store to keeps its value (20 R42). -/
def BytesStored (i : Instr) (s t : State) : Prop :=
  ∀ c : Addr, ¬ StoresTo i s c → t.mem.read c = s.mem.read c

section
variable {i : Instr} {s t : State}

theorem BytesStored.of_mem_eq (h : t.mem = s.mem) : BytesStored i s t := fun _ _ => by rw [h]

theorem BytesStored.of_math {r1 : Byte} {n : Nat} (h : MathEnd r1 n s t) : BytesStored i s t := by
  obtain ⟨_, _, _, rfl⟩ := h
  exact .of_mem_eq rfl

end

/-- POKE writes one byte, at the address `StoresTo` names (47 R166). -/
theorem execPoke_bytesStored (r1 r2 : Byte) (s : State) :
    Ends (.poke r1 r2) (BytesStored (.poke r1 r2) s) s (execPoke r1 r2 s) := by
  refine (execPoke_ends r1 r2 s).mono ?_
  rintro _ ⟨ar, a, addr, v, hr2, ha, haddr, rfl⟩ c hc
  have hne : addr ≠ c := by
    rintro rfl
    exact hc ⟨ar, a, hr2, ha, haddr⟩
  exact s.mem.read_write_ne hne v

/-- The copy index `(d + k) mod 65535` of MEMCPY is the same number on the naturals the loop counts with and on the
integers the statements use (47 R167). -/
theorem copyIndex_toNat {d : Int} (hd : 0 ≤ d) (k : Nat) :
    ((BitVec.ofNat 16 ((d.toNat + k) % Config.copyWrap)).toNat : Int) = (d + k) % 65535 := by
  simp only [Config.copyWrap, BitVec.toNat_ofNat]
  omega

/-- MEMCPY writes the bytes at the copy indices of its length, and no others (47 R167). -/
theorem execMemcpy_bytesStored (r1 r2 r3 : Byte) (s : State) :
    Ends (.memcpy r1 r2 r3) (BytesStored (.memcpy r1 r2 r3) s) s (execMemcpy r1 r2 r3 s) := by
  refine (execMemcpy_ends r1 r2 r3 s).mono ?_
  rintro _ ⟨dr, lr, d, n, src, hr1, hr3, hd, hn, hpos, rfl⟩ c hc
  refine Memory.copy_read_other _ c _ _ _ _ fun k hk hkc => hc ?_
  exact ⟨dr, lr, d, n, hr1, hr3, hd, hn, k, by omega, by rw [← hkc, copyIndex_toNat hpos]⟩

/-- Every instruction that runs to its end changes at most the bytes it stores to: POKE and MEMCPY by the two lemmas
above, the others because they leave the whole memory. -/
theorem exec_ends_bytesStored (i : Instr) (s : State) : Ends i (BytesStored i s) s (exec i s) := by
  cases i with
  | poke r1 r2 => exact execPoke_bytesStored r1 r2 s
  | memcpy r1 r2 r3 => exact execMemcpy_bytesStored r1 r2 r3 s
  | exit => exact (execExit_ends s).mono (by rintro _ rfl; exact .of_mem_eq rfl)
  | nop => exact (execNop_ends s).mono (by rintro _ rfl; exact .of_mem_eq rfl)
  | intStore r1 imm => exact (execIntStore_ends r1 imm s).mono (by rintro _ ⟨_, _, rfl⟩; exact .of_mem_eq rfl)
  | intPrint r1 => exact (execIntPrint_ends r1 s).mono (by rintro _ ⟨_, rfl⟩; exact .of_mem_eq rfl)
  | intTostring r1 => exact (execIntTostring_ends r1 s).mono (by rintro _ ⟨_, _, _, rfl⟩; exact .of_mem_eq rfl)
  | intRandom r1 => exact (execIntRandom_ends r1 s).mono (by rintro _ ⟨_, _, rfl⟩; exact .of_mem_eq rfl)
  | jumpTo imm => exact (execJumpTo_ends imm s).mono (by rintro _ rfl; exact .of_mem_eq rfl)
  | jumpZ imm => exact (execJumpZ_ends imm s).mono (by rintro _ (rfl | rfl) <;> exact .of_mem_eq rfl)
  | jumpNz imm => exact (execJumpNz_ends imm s).mono (by rintro _ (rfl | rfl) <;> exact .of_mem_eq rfl)
  | mathXor r1 r2 r3 | mathAdd r1 r2 r3 | mathSub r1 r2 r3 | mathMul r1 r2 r3 | mathAnd r1 r2 r3
  | mathOr r1 r2 r3 | mathLft r1 r2 r3 | mathRgt r1 r2 r3 =>
    exact (threeRegister_ends _ r1 r2 r3 s).mono fun _ => .of_math
  | mathDiv r1 r2 r3 => exact (execMathDiv_ends r1 r2 r3 s).mono fun _ => .of_math
  | mathInc r1 | mathDec r1 => exact (oneRegister_ends _ r1 s).mono fun _ => .of_math
  | stringStore r1 lit => exact (execStringStore_ends r1 lit s).mono (by
      rintro _ ⟨_, _, rfl⟩; exact .of_mem_eq rfl)
  | stringPrint r1 => exact (execStringPrint_ends r1 s).mono (by rintro _ ⟨_, rfl⟩; exact .of_mem_eq rfl)
  | stringConcat r1 r2 r3 => exact (execStringConcat_ends r1 r2 r3 s).mono (by
      rintro _ ⟨_, _, _, rfl⟩; exact .of_mem_eq rfl)
  | stringSystem r1 => exact (execStringSystem_ends r1 s).mono (by
      rintro _ ⟨_, ⟨_, rfl⟩ | ⟨_, rfl⟩⟩ <;> exact .of_mem_eq rfl)
  | stringToint r1 => exact (execStringToint_ends r1 s).mono (by rintro _ ⟨_, _, _, rfl⟩; exact .of_mem_eq rfl)
  | cmpReg r1 r2 => exact (execCmpReg_ends r1 r2 s).mono (by rintro _ ⟨_, rfl⟩; exact .of_mem_eq rfl)
  | cmpImmediate r1 imm => exact (execCmpImmediate_ends r1 imm s).mono (by rintro _ ⟨_, rfl⟩; exact .of_mem_eq rfl)
  | cmpString r1 lit => exact (execCmpString_ends r1 lit s).mono (by rintro _ ⟨_, rfl⟩; exact .of_mem_eq rfl)
  | isString r1 => exact (execIsString_ends r1 s).mono (by rintro _ ⟨_, rfl⟩; exact .of_mem_eq rfl)
  | isNumber r1 => exact (execIsNumber_ends r1 s).mono (by rintro _ ⟨_, rfl⟩; exact .of_mem_eq rfl)
  | storeReg r1 r2 => exact (execStoreReg_ends r1 r2 s).mono (by rintro _ ⟨_, _, _, rfl⟩; exact .of_mem_eq rfl)
  | peek r1 r2 => exact (execPeek_ends r1 r2 s).mono (by rintro _ ⟨_, _, _, rfl⟩; exact .of_mem_eq rfl)
  | stackPush r1 => exact (execStackPush_ends r1 s).mono (by rintro _ ⟨_, _, rfl⟩; exact .of_mem_eq rfl)
  | stackPop r1 => exact (execStackPop_ends r1 s).mono (by rintro _ ⟨_, _, _, rfl⟩; exact .of_mem_eq rfl)
  | stackRet => exact (execStackRet_ends s).mono (by rintro _ ⟨_, rfl⟩; exact .of_mem_eq rfl)
  | stackCall imm => exact (execStackCall_ends imm s).mono (by rintro _ ⟨_, rfl⟩; exact .of_mem_eq rfl)
  | unknown b => exact (execUnknown_ends b s).mono (by rintro _ rfl; exact .of_mem_eq rfl)

/-- Settles O50: a panic leaves the whole memory (60 R204), and an instruction that runs to its end changes only the
bytes it stores to. -/
theorem onlyStoredBytesChange : Obligations.OnlyStoredBytesChange := by
  intro s t i c hexec hc
  have hends := exec_ends_bytesStored i s
  rw [hexec] at hends
  obtain ⟨p, _, rfl⟩ | hstored := hends.of_next
  · rw [State.takePanic_mem]
  · exact hstored c hc

/-! ### CREATE -/

theorem State.accept_create_of_executing {s : State} (h : s.phase = .executing) (image : List Byte) (fz : Bool) :
    s.accept (.create image fz) = (s, .refused) := if_pos h

theorem State.accept_create_of_not_executing {s : State} (h : s.phase ≠ .executing) (image : List Byte)
    (fz : Bool) : s.accept (.create image fz) = s.create image fz := if_neg h

/-- A successful CREATE leaves the state after reset but for the memory, the configuration bit and the host's own
fields (10 R34, 70 R230). -/
theorem State.created_eq (image : List Byte) (fz : Bool) (s : State) :
    s.created image fz = { State.reset with
      mem := Memory.ofImage 0 image, fuzzSafe := fz, draws := s.draws, pending := s.pending,
      replies := s.replies } := rfl

section
variable {image : List Byte} (hlen : image.length ≤ 65536)
include hlen

theorem Memory.read_ofImage_of_lt {k : Nat} (hk : k < image.length) :
    (Memory.ofImage 0 image).read (BitVec.ofNat 16 k) = image[k] := by
  have htoNat : (BitVec.ofNat 16 k).toNat = k := by rw [BitVec.toNat_ofNat]; omega
  rw [Memory.read, htoNat, Memory.lookup_ofImage image 0 k (by omega), dif_pos ⟨Nat.zero_le k, hk⟩]
  rfl

theorem Memory.read_ofImage_of_ge {a : Addr} (ha : image.length ≤ a.toNat) :
    (Memory.ofImage 0 image).read a = 0 := by
  rw [Memory.read, Memory.lookup_ofImage image 0 a.toNat (by omega), dif_neg (by omega)]
  rfl

end

/-- Settles O54: one clause for each of the refused, the successful and the failed CREATE. -/
theorem createLoadsImageOrFails : Obligations.CreateLoadsImageOrFails := by
  intro s image fz
  refine ⟨fun hp => State.accept_create_of_executing hp image fz, fun hp hpos hmax => ?_, fun hp hlen => ?_⟩
  · have hlen : image.length ≤ 65536 := by omega
    refine ⟨s.created image fz, ?_, ?_, fun k hk => ?_, fun a ha => ?_, ?_⟩
    · rw [State.accept_create_of_not_executing hp, State.create_of_legal hpos hmax]
    · exact Memory.ofImage_wf hlen
    · exact Memory.read_ofImage_of_lt hlen hk
    · exact Memory.read_ofImage_of_ge hlen ha
    · exact State.created_eq image fz s
  · refine ⟨s.emptied, ?_, rfl, rfl, rfl⟩
    rw [State.accept_create_of_not_executing hp, State.create_of_illegal hlen]

end Sys2Proof.Machine
end

section
namespace Sys2Proof

/-! ### The bytes of each operand format

One equivalence per format of 30 R64: which byte sequences a format reads, and what it makes of them. -/

@[simp] theorem halfBytes_imm16 (lo hi : Byte) : halfBytes (imm16 lo hi) = [lo, hi] := by simp [halfBytes]

/-- The length bytes of a literal that fits say its length (30 R62). -/
theorem literalLength_toNat {lit : List Byte} (h : literalFits lit = true) :
    (BitVec.ofNat 16 lit.length : Half).toNat = lit.length := by
  simp only [literalFits, decide_eq_true_eq] at h
  rw [BitVec.toNat_ofNat]
  omega

/-- A literal of the length two length bytes give is encoded with those two bytes, and it fits (30 R62). -/
theorem literalBytes_of_length {lo hi : Byte} {lit : List Byte} (h : lit.length = (imm16 lo hi).toNat) :
    literalFits lit = true ∧ literalBytes lit = lo :: hi :: lit := by
  have := (imm16 lo hi).isLt
  refine ⟨by simp only [literalFits, decide_eq_true_eq]; omega, ?_⟩
  simp [literalBytes, h]

section
variable {m : Mnemonic} {bytes rest : List Byte} {i : Instr}

theorem takeR_eq_ok {f : Byte → Instr} :
    takeR m f bytes = .ok (i, rest) ↔ ∃ r1, i = f r1 ∧ bytes = r1 :: rest := by
  constructor
  · intro h
    unfold takeR at h
    split at h <;> cases h
    exact ⟨_, rfl, rfl⟩
  · rintro ⟨_, rfl, rfl⟩
    rfl

theorem takeRR_eq_ok {f : Byte → Byte → Instr} :
    takeRR m f bytes = .ok (i, rest) ↔ ∃ r1 r2, i = f r1 r2 ∧ bytes = r1 :: r2 :: rest := by
  constructor
  · intro h
    unfold takeRR at h
    split at h <;> cases h
    exact ⟨_, _, rfl, rfl⟩
  · rintro ⟨_, _, rfl, rfl⟩
    rfl

theorem takeRRR_eq_ok {f : Byte → Byte → Byte → Instr} :
    takeRRR m f bytes = .ok (i, rest) ↔ ∃ r1 r2 r3, i = f r1 r2 r3 ∧ bytes = r1 :: r2 :: r3 :: rest := by
  constructor
  · intro h
    unfold takeRRR at h
    split at h <;> cases h
    exact ⟨_, _, _, rfl, rfl⟩
  · rintro ⟨_, _, _, rfl, rfl⟩
    rfl

theorem takeI_eq_ok {f : Half → Instr} :
    takeI m f bytes = .ok (i, rest) ↔ ∃ imm, i = f imm ∧ bytes = halfBytes imm ++ rest := by
  constructor
  · intro h
    unfold takeI at h
    split at h <;> cases h
    exact ⟨_, rfl, by simp⟩
  · rintro ⟨_, rfl, rfl⟩
    simp [takeI, halfBytes]

theorem takeRI_eq_ok {f : Byte → Half → Instr} :
    takeRI m f bytes = .ok (i, rest) ↔ ∃ r1 imm, i = f r1 imm ∧ bytes = r1 :: (halfBytes imm ++ rest) := by
  constructor
  · intro h
    unfold takeRI at h
    split at h <;> cases h
    exact ⟨_, _, rfl, by simp⟩
  · rintro ⟨_, _, rfl, rfl⟩
    simp [takeRI, halfBytes]

theorem takeRS_eq_ok {f : Byte → List Byte → Instr} :
    takeRS m f bytes = .ok (i, rest) ↔
      ∃ r1 lit, literalFits lit = true ∧ i = f r1 lit ∧ bytes = r1 :: (literalBytes lit ++ rest) := by
  constructor
  · intro h
    unfold takeRS at h
    split at h
    case h_2 => cases h
    case h_1 r1 lo hi tail =>
      dsimp only at h
      split at h
      case isFalse => cases h
      case isTrue hn =>
        cases h
        obtain ⟨hfits, hbytes⟩ := literalBytes_of_length (List.length_take_of_le hn)
        refine ⟨r1, tail.take (imm16 lo hi).toNat, hfits, rfl, ?_⟩
        rw [hbytes, List.cons_append, List.cons_append, List.take_append_drop]
  · rintro ⟨r1, lit, hfits, rfl, rfl⟩
    refine takeRS_literal m f r1 _ _ lit rest ?_
    rw [← imm16_toNat, imm16_low_high, literalLength_toNat hfits]

end

/-! ### The two round trips -/

/-- An unassigned byte is the one-byte fallback (49 R190). -/
theorem decodeWith_unassigned {opc : OpcodeMap} {b : Byte} (h : unassigned opc b = true) (rest : List Byte) :
    decodeWith opc (b :: rest) = .ok (.unknown b, rest) := by
  simp only [decodeWith, Mnemonic.ofByte?_eq_none.mpr h]

/-- Settles O3: the opcode byte selects the instruction's own format, which reads the operand bytes back. -/
theorem decodeInvertsEncode : Obligations.DecodeInvertsEncode := by
  intro opc hinj i hwf rest
  cases i with
  | unknown b => exact decodeWith_unassigned hwf rest
  | exit | nop | stackRet | intPrint | intTostring | intRandom | mathInc | mathDec | stringPrint | stringSystem
  | stringToint | isString | isNumber | stackPush | stackPop | cmpReg | storeReg | peek | poke | mathXor | mathAdd
  | mathSub | mathMul | mathDiv | mathAnd | mathOr | mathLft | mathRgt | stringConcat | memcpy =>
    exact decodeWith_opc hinj _ _
  | jumpTo | jumpZ | jumpNz | stackCall =>
    refine (decodeWith_opc hinj _ _).trans ?_
    rw [decodeOperands]
    exact takeI_eq_ok.mpr ⟨_, rfl, rfl⟩
  | intStore | cmpImmediate =>
    refine (decodeWith_opc hinj _ _).trans ?_
    rw [decodeOperands]
    exact takeRI_eq_ok.mpr ⟨_, _, rfl, rfl⟩
  | stringStore | cmpString =>
    refine (decodeWith_opc hinj _ _).trans ?_
    rw [decodeOperands]
    exact takeRS_eq_ok.mpr ⟨_, _, hwf, rfl, rfl⟩

/-- The operand bytes of `m`, read as `i`, are those that encode `i` after its opcode byte, under any map. -/
theorem encodeWith_of_decodeOperands {m : Mnemonic} {bytes rest : List Byte} {i : Instr}
    (h : decodeOperands m bytes = .ok (i, rest)) (opc : OpcodeMap) :
    i.wellFormed opc = true ∧ encodeWith opc i ++ rest = opc m :: bytes := by
  cases m with
  | exit | nop | stackRet =>
    cases h
    exact ⟨rfl, rfl⟩
  | intPrint | intTostring | intRandom | mathInc | mathDec | stringPrint | stringSystem | stringToint | isString
  | isNumber | stackPush | stackPop =>
    obtain ⟨_, rfl, rfl⟩ := takeR_eq_ok.mp h
    exact ⟨rfl, rfl⟩
  | cmpReg | storeReg | peek | poke =>
    obtain ⟨_, _, rfl, rfl⟩ := takeRR_eq_ok.mp h
    exact ⟨rfl, rfl⟩
  | mathXor | mathAdd | mathSub | mathMul | mathDiv | mathAnd | mathOr | mathLft | mathRgt | stringConcat | memcpy =>
    obtain ⟨_, _, _, rfl, rfl⟩ := takeRRR_eq_ok.mp h
    exact ⟨rfl, rfl⟩
  | jumpTo | jumpZ | jumpNz | stackCall =>
    obtain ⟨_, rfl, rfl⟩ := takeI_eq_ok.mp h
    exact ⟨rfl, rfl⟩
  | intStore | cmpImmediate =>
    obtain ⟨_, _, rfl, rfl⟩ := takeRI_eq_ok.mp h
    exact ⟨rfl, rfl⟩
  | stringStore | cmpString =>
    obtain ⟨_, _, hfits, rfl, rfl⟩ := takeRS_eq_ok.mp h
    exact ⟨hfits, rfl⟩

/-- Settles O4: the first byte is unassigned and the fallback, or the opcode byte of the mnemonic whose operands
follow. -/
theorem encodeInvertsDecode : Obligations.EncodeInvertsDecode := by
  intro opc bytes i rest h
  cases bytes with
  | nil => cases h
  | cons b tail =>
    cases hm : Mnemonic.ofByte? opc b with
    | none =>
      have hb := Mnemonic.ofByte?_eq_none.mp hm
      rw [decodeWith_unassigned hb] at h
      cases h
      exact ⟨hb, rfl⟩
    | some m =>
      simp only [decodeWith, hm] at h
      rw [← Mnemonic.opc_of_ofByte? hm]
      exact encodeWith_of_decodeOperands h opc

end Sys2Proof
end

section
namespace Sys2Proof.Machine

/-! ### The fetched bytes -/

/-- Settles O5: the k-th byte read after a store, and a read after a write at the address the sum wraps to. -/
theorem fetchWrapsAndSeesStores : Obligations.FetchWrapsAndSeesStores := by
  intro m a c v n k hwf hk
  have haddr : a + BitVec.ofNat 16 k = BitVec.ofNat 16 (a.toNat + k) := by simp [BitVec.ofNat_add]
  have hstored : c = BitVec.ofNat 16 (a.toNat + k) ↔ (a.toNat + k) % 65536 = c.toNat := by
    rw [← BitVec.toNat_inj, BitVec.toNat_ofNat, eq_comm]
  rw [Memory.readBytes_getElem? _ n k a hk, haddr, Memory.read_write hwf]
  simp only [hstored]

/-! ### ip after an instruction -/

/-- On the way from `s` to `t` the phase stays, and `ip` goes to the byte after the encoding of `i` (10 R17). -/
def AtNextByte (i : Instr) (s t : State) : Prop :=
  t.phase = s.phase ∧ t.ip = s.ip + BitVec.ofNat 16 (encode i).length

section
variable {i : Instr} {s : State}

theorem AtNextByte.of_advance {u : State} {n : Nat} (hn : (encode i).length = n) (hp : u.phase = s.phase)
    (hip : u.ip = s.ip) : AtNextByte i s (u.advance n) :=
  ⟨hp, by rw [State.advance_ip, hip, hn]⟩

theorem AtNextByte.of_math {t : State} {r1 : Byte} {n : Nat} (hn : (encode i).length = n) (h : MathEnd r1 n s t) :
    AtNextByte i s t := by
  obtain ⟨_, _, _, rfl⟩ := h
  exact .of_advance hn rfl rfl

theorem AtNextByte.ip_toNat {t : State} (h : AtNextByte i s t) :
    t.ip.toNat = (s.ip.toNat + (encode i).length) % 65536 := by
  rw [h.2, BitVec.toNat_add, BitVec.toNat_ofNat, Nat.add_mod_mod]

end

/-- Every instruction that sets no `ip` and runs to its end leaves it at its next byte. -/
theorem exec_ends_atNextByte (i : Instr) (s : State) (hi : setsIp i = false) :
    Ends i (AtNextByte i s) s (exec i s) := by
  cases i with
  | jumpTo | jumpZ | jumpNz | stackRet | stackCall => cases hi
  | exit => exact (execExit_ends s).mono (by rintro _ rfl; exact .of_advance rfl rfl rfl)
  | nop => exact (execNop_ends s).mono (by rintro _ rfl; exact .of_advance rfl rfl rfl)
  | intStore r1 imm => exact (execIntStore_ends r1 imm s).mono (by
      rintro _ ⟨_, _, rfl⟩; exact .of_advance rfl rfl rfl)
  | intPrint r1 => exact (execIntPrint_ends r1 s).mono (by rintro _ ⟨_, rfl⟩; exact .of_advance rfl rfl rfl)
  | intTostring r1 => exact (execIntTostring_ends r1 s).mono (by
      rintro _ ⟨_, _, _, rfl⟩; exact .of_advance rfl rfl rfl)
  | intRandom r1 => exact (execIntRandom_ends r1 s).mono (by rintro _ ⟨_, _, rfl⟩; exact .of_advance rfl rfl rfl)
  | mathXor r1 r2 r3 | mathAdd r1 r2 r3 | mathSub r1 r2 r3 | mathMul r1 r2 r3 | mathAnd r1 r2 r3
  | mathOr r1 r2 r3 | mathLft r1 r2 r3 | mathRgt r1 r2 r3 =>
    exact (threeRegister_ends _ r1 r2 r3 s).mono fun _ => .of_math rfl
  | mathDiv r1 r2 r3 => exact (execMathDiv_ends r1 r2 r3 s).mono fun _ => .of_math rfl
  | mathInc r1 | mathDec r1 => exact (oneRegister_ends _ r1 s).mono fun _ => .of_math rfl
  | stringStore r1 lit => exact (execStringStore_ends r1 lit s).mono (by
      rintro _ ⟨_, _, rfl⟩; exact .of_advance (Laws.EncodedLength.stringStore r1 lit _) rfl rfl)
  | stringPrint r1 => exact (execStringPrint_ends r1 s).mono (by rintro _ ⟨_, rfl⟩; exact .of_advance rfl rfl rfl)
  | stringConcat r1 r2 r3 => exact (execStringConcat_ends r1 r2 r3 s).mono (by
      rintro _ ⟨_, _, _, rfl⟩; exact .of_advance rfl rfl rfl)
  | stringSystem r1 => exact (execStringSystem_ends r1 s).mono (by
      rintro _ ⟨_, ⟨_, rfl⟩ | ⟨_, rfl⟩⟩ <;> exact .of_advance rfl rfl rfl)
  | stringToint r1 => exact (execStringToint_ends r1 s).mono (by
      rintro _ ⟨_, _, _, rfl⟩; exact .of_advance rfl rfl rfl)
  | cmpReg r1 r2 => exact (execCmpReg_ends r1 r2 s).mono (by rintro _ ⟨_, rfl⟩; exact .of_advance rfl rfl rfl)
  | cmpImmediate r1 imm => exact (execCmpImmediate_ends r1 imm s).mono (by
      rintro _ ⟨_, rfl⟩; exact .of_advance rfl rfl rfl)
  | cmpString r1 lit => exact (execCmpString_ends r1 lit s).mono (by
      rintro _ ⟨_, rfl⟩; exact .of_advance (Laws.EncodedLength.cmpString r1 lit _) rfl rfl)
  | isString r1 => exact (execIsString_ends r1 s).mono (by rintro _ ⟨_, rfl⟩; exact .of_advance rfl rfl rfl)
  | isNumber r1 => exact (execIsNumber_ends r1 s).mono (by rintro _ ⟨_, rfl⟩; exact .of_advance rfl rfl rfl)
  | storeReg r1 r2 => exact (execStoreReg_ends r1 r2 s).mono (by
      rintro _ ⟨_, _, _, rfl⟩; exact .of_advance rfl rfl rfl)
  | peek r1 r2 => exact (execPeek_ends r1 r2 s).mono (by rintro _ ⟨_, _, _, rfl⟩; exact .of_advance rfl rfl rfl)
  | poke r1 r2 => exact (execPoke_ends r1 r2 s).mono (by
      rintro _ ⟨_, _, _, _, _, _, _, rfl⟩; exact .of_advance rfl rfl rfl)
  | memcpy r1 r2 r3 => exact (execMemcpy_ends r1 r2 r3 s).mono (by
      rintro _ ⟨_, _, _, _, _, _, _, _, _, _, rfl⟩; exact .of_advance rfl rfl rfl)
  | stackPush r1 => exact (execStackPush_ends r1 s).mono (by rintro _ ⟨_, _, rfl⟩; exact .of_advance rfl rfl rfl)
  | stackPop r1 => exact (execStackPop_ends r1 s).mono (by
      rintro _ ⟨_, _, _, rfl⟩; exact .of_advance rfl rfl rfl)
  | unknown b => exact (execUnknown_ends b s).mono (by rintro _ rfl; exact .of_advance rfl rfl rfl)

/-- A conditional jump goes to its target or to the byte after its three bytes (42 R111, R112). -/
theorem jumpIf_ip {c : Bool} {imm : Half} {s t : State} (h : jumpIf c imm s = .next t) :
    t.ip = imm ∨ t.ip = s.ip + 3 := by
  cases c <;> cases h
  · exact .inr rfl
  · exact .inl rfl

/-- Settles O52: a panic keeps `ip` and moves the phase, an end at the next byte keeps the phase; and both
conditional jumps are `jumpIf`. -/
theorem instructionPointerAfterInstruction : Obligations.InstructionPointerAfterInstruction := by
  constructor
  · intro s t i hs hexec hi
    have hends := exec_ends_atNextByte i s hi
    rw [hexec] at hends
    obtain ⟨p, _, rfl⟩ | hnext := hends.of_next
    · exact ⟨fun _ => s.takePanic_ip p, fun hp => absurd (s.takePanic_phase p) hp⟩
    · exact ⟨fun hp => absurd (hnext.1.symm.trans hp) hs, fun _ => hnext.ip_toNat⟩
  · intro s t target h
    have hip : t.ip = target ∨ t.ip = s.ip + 3 := h.elim jumpIf_ip jumpIf_ip
    exact hip.imp_right fun hnext => by rw [hnext, BitVec.toNat_add]; rfl

/-! ### One dispatch -/

/-- A step that dispatches is what the fetched instruction answers, and then the loop's own test (40 R90, R91). -/
theorem stepWith_of_decode {opc : OpcodeMap} {s t : State} {i : Instr} {rest : List Byte} (hp : s.phase = .executing)
    (hr : s.running = true) (hdec : decodeWith opc (fetch opc s.mem s.ip) = .ok (i, rest))
    (hexec : exec i s = .next t) : stepWith opc s = .next t.afterDispatch := by
  rw [stepWith, if_pos hp, if_pos hr, dispatch, hdec]
  simp only [hexec, afterExec]

/-- With no cap the loop counts an instruction that keeps it running, and goes on (40 R93). -/
theorem State.afterDispatch_of_uncapped {t : State} (hp : t.phase ≠ .panicked) (hr : t.running = true)
    (hcap : t.cap ≤ 0) : t.afterDispatch = { t with icount := t.icount + 1 } := by
  have hcounted : t.counted = { t with icount := t.icount + 1 } := by
    have hnocap : ¬ 0 < t.cap := by omega
    simp [State.counted, hnocap]
  rw [State.afterDispatch, if_neg hp, hcounted]
  exact if_pos hr

/-- At an unassigned byte the fetch reads that byte alone, and it is the fallback (30 R65, 49 R190). -/
theorem decodeWith_fetch_unassigned {opc : OpcodeMap} {m : Memory} {a : Addr}
    (h : unassigned opc (m.read a) = true) :
    decodeWith opc (fetch opc m a) = .ok (.unknown (m.read a), []) := by
  have hone : fetchCount opc m a = 1 := by
    simp only [fetchCount, instrBytes, Mnemonic.ofByte?_eq_none.mpr h]
  rw [fetch, hone]
  exact decodeWith_unassigned h []

/-- A byte that is no mnemonic's opcode is unassigned. -/
theorem unassigned_of_forall_ne {opc : OpcodeMap} {b : Byte} (h : ∀ m, opc m ≠ b) : unassigned opc b = true := by
  simp [unassigned, h]

/-- Settles O43: the fallback reports and skips its byte, and an uncapped step counts it. -/
theorem unknownOpcodeIsReported : Obligations.UnknownOpcodeIsReported := by
  intro s b
  refine ⟨rfl, fun hp hr hb hread hcap => ?_⟩
  have hdec := decodeWith_fetch_unassigned (unassigned_of_forall_ne (hread ▸ hb))
  rw [hread] at hdec
  have hafter : ((s.emitDiag (.unknownOpcode b)).advance 1).afterDispatch = _ :=
    State.afterDispatch_of_uncapped (by simp [hp]) hr hcap
  exact (stepWith_of_decode hp hr hdec rfl).trans (congrArg Host.Outcome.next hafter)

end Sys2Proof.Machine
end

section
namespace Sys2Proof.Machine

/-! ### Control state and channels -/

/-- A list stays as it is, or, where `allowed`, gets one entry more at its end. -/
def Appended {α : Type} (allowed : Prop) (l l' : List α) : Prop := l' = l ∨ (allowed ∧ ∃ a, l' = l ++ [a])

theorem Appended.isPrefix {α : Type} {allowed : Prop} {l l' : List α} (h : Appended allowed l l') : l <+: l' := by
  obtain rfl | ⟨_, a, rfl⟩ := h
  · exact List.prefix_rfl
  · exact List.prefix_append l [a]

theorem Appended.eq_or {α : Type} {allowed : Prop} {l l' : List α} (h : Appended allowed l l') : l' = l ∨ allowed :=
  h.imp_right And.left

/-- What instruction `i` does on its way from `s` to `t` to `running`, to the channels of the outside world and to the
random input (10 R21, R28 to R30, R32). -/
structure OutsideFrame (i : Instr) (s t : State) : Prop where
  running : i ≠ .exit → t.running = s.running
  outCh : Appended ((∃ b, i = .intPrint b) ∨ ∃ b, i = .stringPrint b) s.outCh t.outCh
  hostCh : Appended ((∃ b, i = .stringSystem b) ∧ s.fuzzSafe = false) s.hostCh t.hostCh
  diagCh : Appended (((∃ b, i = .stringSystem b) ∧ s.fuzzSafe = true) ∨ ∃ b, i = .unknown b) s.diagCh t.diagCh
  draws : t.draws = s.draws ∨ ((∃ b, i = .intRandom b) ∧ t.draws = s.draws + 1)

section
variable {i : Instr} {s t : State}

/-- An end that touches none of those fields, which for an update of other fields of `s` holds by `rfl`. -/
theorem OutsideFrame.of_eqs (h : t.running = s.running ∧ t.outCh = s.outCh ∧ t.hostCh = s.hostCh ∧
    t.diagCh = s.diagCh ∧ t.draws = s.draws := by exact ⟨rfl, rfl, rfl, rfl, rfl⟩) : OutsideFrame i s t := by
  obtain ⟨hrunning, hout, hhost, hdiag, hdraws⟩ := h
  exact ⟨fun _ => hrunning, .inl hout, .inl hhost, .inl hdiag, .inl hdraws⟩

theorem OutsideFrame.of_math {r1 : Byte} {n : Nat} (h : MathEnd r1 n s t) : OutsideFrame i s t := by
  obtain ⟨_, _, _, rfl⟩ := h
  exact .of_eqs

end

/-- EXIT, the two PRINTs, STRING_SYSTEM, INT_RANDOM and the fallback each touch their own field; every other
instruction touches none. -/
theorem exec_ends_outsideFrame (i : Instr) (s : State) : Ends i (OutsideFrame i s) s (exec i s) := by
  cases i with
  | exit => exact (execExit_ends s).mono (by
      rintro _ rfl; exact ⟨fun h => absurd rfl h, .inl rfl, .inl rfl, .inl rfl, .inl rfl⟩)
  | intPrint r1 => exact (execIntPrint_ends r1 s).mono (by
      rintro _ ⟨_, rfl⟩
      exact ⟨fun _ => rfl, .inr ⟨.inl ⟨_, rfl⟩, _, rfl⟩, .inl rfl, .inl rfl, .inl rfl⟩)
  | stringPrint r1 => exact (execStringPrint_ends r1 s).mono (by
      rintro _ ⟨_, rfl⟩
      exact ⟨fun _ => rfl, .inr ⟨.inr ⟨_, rfl⟩, _, rfl⟩, .inl rfl, .inl rfl, .inl rfl⟩)
  | stringSystem r1 => exact (execStringSystem_ends r1 s).mono (by
      rintro _ ⟨_, ⟨hsafe, rfl⟩ | ⟨hsafe, rfl⟩⟩
      · exact ⟨fun _ => rfl, .inl rfl, .inl rfl, .inr ⟨.inl ⟨⟨_, rfl⟩, hsafe⟩, _, rfl⟩, .inl rfl⟩
      · exact ⟨fun _ => rfl, .inl rfl, .inr ⟨⟨⟨_, rfl⟩, hsafe⟩, _, rfl⟩, .inl rfl, .inl rfl⟩)
  | unknown b => exact (execUnknown_ends b s).mono (by
      rintro _ rfl
      exact ⟨fun _ => rfl, .inl rfl, .inl rfl, .inr ⟨.inr ⟨_, rfl⟩, _, rfl⟩, .inl rfl⟩)
  | intRandom r1 => exact (execIntRandom_ends r1 s).mono (by
      rintro _ ⟨_, _, rfl⟩
      exact ⟨fun _ => rfl, .inl rfl, .inl rfl, .inl rfl, .inr ⟨⟨_, rfl⟩, rfl⟩⟩)
  | nop => exact (execNop_ends s).mono (by rintro _ rfl; exact .of_eqs)
  | intStore r1 imm => exact (execIntStore_ends r1 imm s).mono (by rintro _ ⟨_, _, rfl⟩; exact .of_eqs)
  | intTostring r1 => exact (execIntTostring_ends r1 s).mono (by rintro _ ⟨_, _, _, rfl⟩; exact .of_eqs)
  | jumpTo imm => exact (execJumpTo_ends imm s).mono (by rintro _ rfl; exact .of_eqs)
  | jumpZ imm => exact (execJumpZ_ends imm s).mono (by rintro _ (rfl | rfl) <;> exact .of_eqs)
  | jumpNz imm => exact (execJumpNz_ends imm s).mono (by rintro _ (rfl | rfl) <;> exact .of_eqs)
  | mathXor r1 r2 r3 | mathAdd r1 r2 r3 | mathSub r1 r2 r3 | mathMul r1 r2 r3 | mathAnd r1 r2 r3
  | mathOr r1 r2 r3 | mathLft r1 r2 r3 | mathRgt r1 r2 r3 =>
    exact (threeRegister_ends _ r1 r2 r3 s).mono fun _ => .of_math
  | mathDiv r1 r2 r3 => exact (execMathDiv_ends r1 r2 r3 s).mono fun _ => .of_math
  | mathInc r1 | mathDec r1 => exact (oneRegister_ends _ r1 s).mono fun _ => .of_math
  | stringStore r1 lit => exact (execStringStore_ends r1 lit s).mono (by rintro _ ⟨_, _, rfl⟩; exact .of_eqs)
  | stringConcat r1 r2 r3 => exact (execStringConcat_ends r1 r2 r3 s).mono (by rintro _ ⟨_, _, _, rfl⟩; exact .of_eqs)
  | stringToint r1 => exact (execStringToint_ends r1 s).mono (by rintro _ ⟨_, _, _, rfl⟩; exact .of_eqs)
  | cmpReg r1 r2 => exact (execCmpReg_ends r1 r2 s).mono (by rintro _ ⟨_, rfl⟩; exact .of_eqs)
  | cmpImmediate r1 imm => exact (execCmpImmediate_ends r1 imm s).mono (by rintro _ ⟨_, rfl⟩; exact .of_eqs)
  | cmpString r1 lit => exact (execCmpString_ends r1 lit s).mono (by rintro _ ⟨_, rfl⟩; exact .of_eqs)
  | isString r1 => exact (execIsString_ends r1 s).mono (by rintro _ ⟨_, rfl⟩; exact .of_eqs)
  | isNumber r1 => exact (execIsNumber_ends r1 s).mono (by rintro _ ⟨_, rfl⟩; exact .of_eqs)
  | storeReg r1 r2 => exact (execStoreReg_ends r1 r2 s).mono (by rintro _ ⟨_, _, _, rfl⟩; exact .of_eqs)
  | peek r1 r2 => exact (execPeek_ends r1 r2 s).mono (by rintro _ ⟨_, _, _, rfl⟩; exact .of_eqs)
  | poke r1 r2 => exact (execPoke_ends r1 r2 s).mono (by rintro _ ⟨_, _, _, _, _, _, _, rfl⟩; exact .of_eqs)
  | memcpy r1 r2 r3 => exact (execMemcpy_ends r1 r2 r3 s).mono (by
      rintro _ ⟨_, _, _, _, _, _, _, _, _, _, rfl⟩; exact .of_eqs)
  | stackPush r1 => exact (execStackPush_ends r1 s).mono (by rintro _ ⟨_, _, rfl⟩; exact .of_eqs)
  | stackPop r1 => exact (execStackPop_ends r1 s).mono (by rintro _ ⟨_, _, _, rfl⟩; exact .of_eqs)
  | stackRet => exact (execStackRet_ends s).mono (by rintro _ ⟨_, rfl⟩; exact .of_eqs)
  | stackCall imm => exact (execStackCall_ends imm s).mono (by rintro _ ⟨_, rfl⟩; exact .of_eqs)

/-- What an instruction answers is a panic, which only latches the fault, or an ordinary end within the frame. -/
theorem exec_next_cases {i : Instr} {s t : State} (h : exec i s = .next t) :
    (∃ p, t = s.takePanic p) ∨ (Ordinary s t ∧ OutsideFrame i s t) := by
  have hordinary := exec_ends i s
  have hframe := exec_ends_outsideFrame i s
  rw [h] at hordinary hframe
  obtain ⟨p, _, hp⟩ | hordinary := hordinary.of_next
  · exact .inl ⟨p, hp⟩
  · exact hframe.of_next.imp (fun ⟨p, _, hp⟩ => ⟨p, hp⟩) fun hframe => ⟨hordinary, hframe⟩

/-- Settles O51: a panic touches only what a latched fault does, an ordinary end only what its instruction may. -/
theorem controlStateAndChannelsFrame : Obligations.ControlStateAndChannelsFrame := by
  intro s t i _ hexec
  obtain ⟨p, rfl⟩ | ⟨ho, hf⟩ := exec_next_cases hexec
  · exact ⟨rfl, rfl, rfl, rfl, rfl, fun hp => absurd rfl hp, List.prefix_rfl, List.prefix_rfl, List.prefix_rfl,
      .inl rfl, .inl rfl, .inl rfl, .inl rfl⟩
  · exact ⟨ho.icount, ho.cap, ho.fuzzSafe, ho.pending, ho.replies,
      fun _ => ⟨ho.phase, ho.fault, ho.panicCh, hf.running⟩, hf.outCh.isPrefix, hf.hostCh.isPrefix,
      hf.diagCh.isPrefix, hf.outCh.eq_or, hf.hostCh.eq_or, hf.diagCh.eq_or, hf.draws⟩

/-! ### After a dispatch -/

/-- The loop ends after a dispatch that completed in `t`: the cap is reached, or EXIT has cleared `running`
(40 R93, R95). -/
abbrev State.LoopEnds (t : State) : Prop := (0 < t.cap ∧ t.cap ≤ t.icount + 1) ∨ t.running = false

theorem State.afterDispatch_of_panicked {t : State} (hp : t.phase = .panicked) : t.afterDispatch = t := if_pos hp

theorem State.counted_running_eq_false_iff {t : State} : t.counted.running = false ↔ t.LoopEnds := by
  cases hr : t.running <;> simp [State.LoopEnds, hr]

/-- The count touches `icount` and `running` alone (40 R93). -/
theorem State.counted_eq {t : State} {b : Bool} (h : t.counted.running = b) :
    t.counted = { t with icount := t.icount + 1, running := b } := by
  subst h
  rfl

theorem State.afterDispatch_of_loopEnds {t : State} (hp : t.phase ≠ .panicked) (h : t.LoopEnds) :
    t.afterDispatch = { t with icount := t.icount + 1, running := false, phase := .stopped } := by
  rw [State.afterDispatch, if_neg hp, State.counted_eq (State.counted_running_eq_false_iff.mpr h)]
  rfl

theorem State.afterDispatch_of_not_loopEnds {t : State} (hp : t.phase ≠ .panicked) (h : ¬ t.LoopEnds) :
    t.afterDispatch = { t with icount := t.icount + 1 } := by
  have hrunning : t.running = true := eq_true_of_ne_false (not_or.mp h).2
  have hcounted : t.counted.running = true := eq_true_of_ne_false (mt State.counted_running_eq_false_iff.mp h)
  rw [State.afterDispatch, if_neg hp, State.counted_eq (hcounted.trans hrunning.symm)]
  exact if_pos hrunning

/-! ### The step of an instruction placed at `ip` -/

/-- The bytes read from an address on begin with any fewer of them. -/
theorem Memory.readBytes_isPrefix (m : Memory) :
    ∀ {n k : Nat} (a : Addr), n ≤ k → m.readBytes a n <+: m.readBytes a k
  | 0, _, _, _ => List.nil_prefix
  | _ + 1, _ + 1, a, h => by
    rw [Memory.readBytes, Memory.readBytes, List.prefix_cons_inj]
    exact m.readBytes_isPrefix (a + 1) (Nat.le_of_succ_le_succ h)

/-- No encoding is the beginning of another (30 R68). -/
theorem eq_of_encodeWith_isPrefix {opc : OpcodeMap} (hinj : opc.Injective) {i j : Instr}
    (hi : i.wellFormed opc = true) (hj : j.wellFormed opc = true)
    (h : encodeWith opc i <+: encodeWith opc j) : i = j := by
  obtain ⟨rest, hrest⟩ := h
  have hdeci := decodeInvertsEncode opc hinj i hi rest
  have hdecj := decodeInvertsEncode opc hinj j hj []
  rw [hrest, ← List.append_nil (encodeWith opc j), hdecj] at hdeci
  cases hdeci
  rfl

/-- What is fetched is a well-formed instruction, and the bytes fetched are its encoding (30 R60, R65). -/
theorem encodeWith_of_decodeWith_fetch {opc : OpcodeMap} {m : Memory} {a : Addr} {i : Instr}
    (h : decodeWith opc (fetch opc m a) = .ok (i, [])) :
    i.wellFormed opc = true ∧ encodeWith opc i = fetch opc m a := by
  simpa using encodeInvertsDecode opc _ i [] h

/-- Where memory holds the encoding of an instruction, that instruction is fetched (30 R60, R65). -/
theorem decodeWith_fetch_of_readBytes {opc : OpcodeMap} (hinj : opc.Injective) {m : Memory} {a : Addr} {i : Instr}
    (hwf : i.wellFormed opc = true) (hbytes : m.readBytes a (encodeWith opc i).length = encodeWith opc i) :
    decodeWith opc (fetch opc m a) = .ok (i, []) := by
  obtain ⟨j, hj⟩ := decodeWith_fetch opc m a
  obtain ⟨hjwf, hjbytes⟩ := encodeWith_of_decodeWith_fetch hj
  suffices i = j by rwa [this]
  obtain hle | hle := Nat.le_total (encodeWith opc i).length (fetchCount opc m a)
  · refine eq_of_encodeWith_isPrefix hinj hwf hjwf ?_
    rw [← hbytes, hjbytes]
    exact m.readBytes_isPrefix a hle
  · refine (eq_of_encodeWith_isPrefix hinj hjwf hwf ?_).symm
    rw [← hbytes, hjbytes]
    exact m.readBytes_isPrefix a hle

/-- Settles O6: the encoded instruction is the one fetched, and the loop does one of its three things after it. -/
theorem stepRunsDecodedInstruction : Obligations.StepRunsDecodedInstruction := by
  refine ⟨fun _ => rfl, fun opc s i hinj hp hr hwf hbytes => ?_⟩
  obtain ⟨t, hexec, _⟩ := exec_cases i s
  have hstep := stepWith_of_decode hp hr (decodeWith_fetch_of_readBytes hinj hwf hbytes) hexec
  refine ⟨t, hexec, fun hpanic => ?_, fun hpanic hends => ?_, fun hpanic hcap hrun => ?_⟩
  · rw [hstep, State.afterDispatch_of_panicked hpanic]
  · rw [hstep, State.afterDispatch_of_loopEnds hpanic hends]
  · rw [hstep, State.afterDispatch_of_not_loopEnds hpanic (by simp [State.LoopEnds, hrun, hcap])]

/-- Settles O7: each of the three cases of a step answers a next state. -/
theorem stepAlwaysAnswersNext : Obligations.StepAlwaysAnswersNext := by
  intro opc s
  obtain ⟨_, hhost⟩ | ⟨_, _, hleft⟩ | ⟨_, _, _, _, _, _, hdispatch⟩ := stepWith_cases opc s
  · exact ⟨_, hhost⟩
  · exact ⟨_, hleft⟩
  · exact ⟨_, hdispatch⟩

/-! ### EXIT and NOP -/

/-- The default opcode map gives no two mnemonics one byte (30 R69, R70). -/
theorem opc_injective : Config.opc.Injective := by
  have hselects : ∀ m, Mnemonic.ofByte? Config.opc (Config.opc m) = some m := by
    intro m
    cases m <;> rfl
  intro m m' h
  exact Option.some.inj ((hselects m).symm.trans (h ▸ hselects m'))

/-- A step at the opcode byte of an instruction of one byte. -/
theorem step_of_opcode_byte {s t : State} {m : Mnemonic} {i : Instr} (hp : s.phase = .executing)
    (hr : s.running = true) (hread : s.mem.read s.ip = Config.opc m) (hwf : i.wellFormed Config.opc = true)
    (hbyte : encode i = [Config.opc m]) (hexec : exec i s = .next t) : step s = .next t.afterDispatch := by
  refine stepWith_of_decode hp hr (decodeWith_fetch_of_readBytes opc_injective hwf ?_) hexec
  rw [encode] at hbyte
  rw [hbyte, ← hread]
  rfl

theorem State.entries_getElem?_of_lt {s : State} {k : Nat} (hk : k < 1024) (h : k < s.sp.val) :
    s.entries[k]? = some s.stack[k] := by
  have hlen : k < s.entries.length := by rwa [State.entries_length]
  rw [List.getElem?_eq_getElem hlen, State.entries_getElem]

/-- The state in which a run of EXIT leaves the loop (40 R95). -/
theorem step_exit {s : State} (hp : s.phase = .executing) (hr : s.running = true)
    (hread : s.mem.read s.ip = Config.opc .exit) :
    step s = .next { s with running := false, ip := s.ip + 1, icount := s.icount + 1, phase := .stopped } := by
  rw [step_of_opcode_byte hp hr hread rfl rfl (i := .exit) rfl,
    State.afterDispatch_of_loopEnds (by simp [hp]) (.inr rfl)]
  rfl

/-- Settles O9: EXIT ends the loop and leaves what DUMP shows; NOP is counted and no more. -/
theorem exitEndsRunNopIsInert : Obligations.ExitEndsRunNopIsInert := by
  refine ⟨decodesAs_of_decodeOperands rfl fun _ => rfl, decodesAs_of_decodeOperands rfl fun _ => rfl,
    fun _ => rfl, fun _ => rfl, fun s cap hp hr hread => ?_, fun s hp hr hread hcap => ?_⟩
  · exact ⟨_, step_exit hp hr hread, rfl, ⟨s.entries, rfl, fun k hk h => State.entries_getElem?_of_lt hk h⟩, rfl⟩
  · rw [step_of_opcode_byte hp hr hread rfl rfl (i := .nop) rfl,
      State.afterDispatch_of_uncapped (t := s.advance 1) (by simp [hp]) hr hcap]
    rfl

/-! ### A run with a positive cap -/

/-- The loop is dispatching and the count is below the cap, which is then positive (40 R93). -/
structure State.InCappedRun (s : State) : Prop where
  phase : s.phase = .executing
  running : s.running = true
  belowCap : (s.icount : Int) < s.cap

/-- The dispatch from `s` ends the run in `t`: at the cap, by EXIT, or by a panic (40 R93 to R95). -/
def RunEndsAt (opc : OpcodeMap) (s t : State) : Prop :=
  Halted t ∧ (t.phase = .stopped → (t.icount : Int) = s.cap ∨ s.mem.read s.ip = opc .exit)

/-- An EXIT is fetched only at its opcode byte. -/
theorem read_of_decodeWith_fetch_exit {opc : OpcodeMap} {m : Memory} {a : Addr}
    (h : decodeWith opc (fetch opc m a) = .ok (.exit, [])) : m.read a = opc .exit := by
  obtain ⟨_, hbytes⟩ := encodeWith_of_decodeWith_fetch h
  rw [fetch] at hbytes
  cases hn : fetchCount opc m a with
  | zero => rw [hn] at hbytes; cases hbytes
  | succ n =>
    rw [hn, Memory.readBytes] at hbytes
    exact (List.cons.inj hbytes).1.symm

/-- A dispatch in a capped run ends the run, or is counted and the run goes on. -/
theorem State.InCappedRun.stepWith {s : State} (h : s.InCappedRun) (opc : OpcodeMap) :
    ∃ t, Machine.stepWith opc s = .next t ∧
      (RunEndsAt opc s t ∨ (t.InCappedRun ∧ t.cap = s.cap ∧ t.icount = s.icount + 1)) := by
  obtain ⟨hp, hr, hbelow⟩ := h
  obtain ⟨i, hdec⟩ := decodeWith_fetch opc s.mem s.ip
  obtain ⟨t, hexec, _⟩ := exec_cases i s
  refine ⟨t.afterDispatch, stepWith_of_decode hp hr hdec hexec, ?_⟩
  obtain ⟨p, rfl⟩ | ⟨ho, hf⟩ := exec_next_cases hexec
  · rw [State.afterDispatch_of_panicked (s.takePanic_phase p)]
    exact .inl ⟨.inr (s.takePanic_phase p), nofun⟩
  · have hphase : t.phase = .executing := ho.phase.trans hp
    have hnotPanicked : t.phase ≠ .panicked := by simp [hphase]
    by_cases hends : t.LoopEnds
    · rw [State.afterDispatch_of_loopEnds hnotPanicked hends]
      refine .inl ⟨.inl rfl, fun _ => ?_⟩
      obtain ⟨_, hcap⟩ | hstopped := hends
      · rw [ho.cap, ho.icount] at hcap
        left
        simp only [ho.icount]
        omega
      · have hexit : i = .exit := Classical.byContradiction fun hne =>
          Bool.noConfusion (hr.symm.trans ((hf.running hne).symm.trans hstopped))
        exact .inr (read_of_decodeWith_fetch_exit (hexit ▸ hdec))
    · obtain ⟨hnotReached, hnotStopped⟩ := not_or.mp hends
      rw [ho.cap, ho.icount] at hnotReached
      rw [State.afterDispatch_of_not_loopEnds hnotPanicked hends]
      refine .inr ⟨⟨hphase, eq_true_of_ne_false hnotStopped, ?_⟩, ho.cap, congrArg (· + 1) ho.icount⟩
      simp only [ho.cap, ho.icount]
      omega

/-- A capped run of at most `n` more instructions reaches its last dispatch, from `u` to `t`. -/
theorem State.InCappedRun.exists_run : ∀ (n : Nat) {s : State}, s.InCappedRun → s.cap - s.icount ≤ n →
    ∃ (k : Nat) (u t : State), (k + 1 : Nat) ≤ s.cap - s.icount ∧ core.run k s = .next u ∧
      core.run (k + 1) s = .next t ∧ u.phase = .executing ∧ u.cap = s.cap ∧ RunEndsAt Config.opc u t
  | 0, s, h, hn => absurd h.belowCap (by omega)
  | n + 1, s, h, hn => by
    have hbelow := h.belowCap
    obtain ⟨s', hstep, hends | ⟨h', hcap, hcount⟩⟩ := h.stepWith Config.opc
    · exact ⟨0, s, s', by omega, rfl, core_run_succ hstep 0, h.phase, rfl, hends⟩
    · obtain ⟨k, u, t, hk, hu, ht, hphase, hucap, hends⟩ := h'.exists_run n (by omega)
      exact ⟨k + 1, u, t, by omega, (core_run_succ hstep k).trans hu, (core_run_succ hstep (k + 1)).trans ht,
        hphase, hucap.trans hcap, hends⟩

/-- Settles O8: a state of the invariant is in a capped run, whose last dispatch comes within `cap - icount`. -/
theorem cappedRunEnds : Obligations.CappedRunEnds := by
  intro s hinv hp hcap
  have hrun : s.InCappedRun := ⟨hp, hinv.runningPhase.mpr (.inr hp), hinv.belowCap hp hcap⟩
  obtain ⟨k, u, t, hk, hu, ht, hphase, hucap, hhalted, hstopped⟩ :=
    hrun.exists_run (s.cap - s.icount).toNat (by omega)
  refine ⟨k + 1, t, Nat.le_add_left 1 k, hk, ht, hhalted, fun h => ?_⟩
  exact (hstopped h).imp (·.trans hucap) fun hexit => ⟨u, hu, hphase, hexit⟩

end Sys2Proof.Machine
end

section
namespace Sys2Proof.Machine

/-! ### An instruction that begins with a register byte, or with a numeric read of that register -/

section
variable {i : Instr} {b : Byte} {s : State}

/-- An instruction that begins with the check of a register byte raises BAD_REGISTER with it (30 R66). -/
theorem raises_of_badByte {k : Reg → Result} (hexec : exec i s = withReg b s k) (hb : BadByte b) :
    Raises i s .badRegister b.toNat :=
  hexec.trans (withReg_of_bad hb s k)

variable {k : Reg → Number → Result} (hexec : exec i s = withReg b s fun r => withNum r s (k r))
include hexec

/-- A numeric read of the register named raises TYPE_MISMATCH when it holds a String (10 R14). -/
theorem raises_of_string {r : Reg} {t : Str} (hb : b = regByte r) (ht : s.regs[r] = .string t) :
    Raises i s .typeMismatch r.val := by
  subst hb
  rw [raises_iff, hexec, withReg_regByte, withNum_string ht]

/-- With a Number in the register named, the instruction goes on with it. -/
theorem exec_of_number {r : Reg} {n : Number} (hb : b = regByte r) (hn : s.regs[r] = .number n) :
    exec i s = k r n := by
  subst hb
  rw [hexec, withReg_regByte, withNum_number hn]

end

/-! ### INT_STORE, INT_PRINT, INT_TOSTRING -/

theorem exec_intStore (b : Byte) (imm : Half) (s : State) : exec (.intStore b imm) s =
    withReg b s fun d => .next ((s.setReg d (.number (ofHalf imm))).advance 4) := rfl

theorem exec_intPrint (b : Byte) (s : State) : exec (.intPrint b) s =
    withReg b s fun r => withNum r s fun n => .next ((s.emitOut (.int n)).advance 2) := rfl

theorem exec_intTostring (b : Byte) (s : State) : exec (.intTostring b) s =
    withReg b s fun r => withNum r s fun n => .next ((s.setReg r (.string (dec n))).advance 2) := rfl

/-- INT_STORE's Number is the immediate, zero-extended: `lo + 256*hi`, never negative (41 R100). -/
theorem ofHalf_imm16_toInt (lo hi : Byte) : (ofHalf (imm16 lo hi)).toInt = lo.toNat + 256 * hi.toNat := by
  simp [imm16_toNat]

theorem exec_intStore_regByte (d : Reg) (imm : Half) (s : State) :
    exec (.intStore (regByte d) imm) s = .next ((s.setReg d (.number (ofHalf imm))).advance 4) := by
  rw [exec_intStore, withReg_regByte]

/-- Channel OUT with one record is that record's text (10 R28). -/
theorem renderOut_singleton (r : OutRecord) : renderOut [r] = r.text := by
  simp [renderOut]

/-- Settles O10: the immediate decoded is `lo + 256*hi`, and its zero extension is what the register gets. -/
theorem intStoreWritesImmediate : Obligations.IntStoreWritesImmediate := by
  intro s b lo hi
  refine ⟨imm16 lo hi, imm16_toNat lo hi, decodesAs_of_decodeOperands rfl fun _ => rfl,
    raises_of_badByte (exec_intStore b _ s), fun d hd => ?_⟩
  subst hd
  exact ⟨ofHalf (imm16 lo hi), ofHalf_imm16_toInt lo hi, exec_intStore_regByte d _ s⟩

/-- Settles O11: a numeric read of the register, then one record on OUT, whose text is the Number's. -/
theorem intPrintEmitsNumber : Obligations.IntPrintEmitsNumber := by
  intro s b
  have hexec := exec_intPrint b s
  exact ⟨decodesAs_of_decodeOperands rfl fun _ => rfl, raises_of_badByte hexec,
    fun _ _ => raises_of_string hexec,
    fun _ n hr hn => ⟨exec_of_number hexec hr hn, renderOut_singleton (.int n)⟩⟩

/-- Settles O12: a numeric read of the register, which then gets the decimal text; the two texts are computed. -/
theorem intToStringConverts : Obligations.IntToStringConverts := by
  refine ⟨fun s b => ?_, by decide, by decide⟩
  have hexec := exec_intTostring b s
  exact ⟨decodesAs_of_decodeOperands rfl fun _ => rfl, raises_of_badByte hexec,
    fun _ _ => raises_of_string hexec, fun _ _ => exec_of_number hexec⟩

end Sys2Proof.Machine
end

section
namespace Sys2Proof.Machine

/-! ### Jumps -/

theorem exec_jumpTo (target : Half) (s : State) : exec (.jumpTo target) s = .next (s.setIp target) := rfl

theorem exec_jumpZ (target : Half) (s : State) : exec (.jumpZ target) s = jumpIf s.z target s := rfl

theorem exec_jumpNz (target : Half) (s : State) : exec (.jumpNz target) s = jumpIf (!s.z) target s := rfl

section
variable {i : Instr} {c : Bool} {target : Half} {s : State} (hexec : exec i s = jumpIf c target s)
include hexec

/-- A conditional jump whose condition holds goes to its target (42 R111, R112). -/
theorem completes_of_jump_taken (hc : c = true) : Completes i s { s with ip := target } := by
  subst hc
  exact hexec

/-- A conditional jump whose condition fails goes to the byte after its three bytes (42 R111, R112). -/
theorem completes_of_jump_not_taken (hc : c = false) : Completes i s { s with ip := s.ip + 3 } := by
  subst hc
  exact hexec

end

/-- Settles O16: the target decoded is `lo + 256*hi`, and both conditional jumps are `jumpIf`, on Z and on its
negation. -/
theorem jumpsSetInstructionPointer : Obligations.JumpsSetInstructionPointer := by
  intro s lo hi
  have hz := exec_jumpZ (imm16 lo hi) s
  have hnz := exec_jumpNz (imm16 lo hi) s
  refine ⟨imm16 lo hi, imm16_toNat lo hi, decodesAs_of_decodeOperands rfl fun _ => rfl,
    decodesAs_of_decodeOperands rfl fun _ => rfl, decodesAs_of_decodeOperands rfl fun _ => rfl,
    exec_jumpTo _ s, completes_of_jump_taken hz, completes_of_jump_not_taken hz, fun hclear => ?_, fun hset => ?_⟩
  · exact completes_of_jump_taken hnz (by rw [hclear, Bool.not_false])
  · exact completes_of_jump_not_taken hnz (by rw [hset, Bool.not_true])

end Sys2Proof.Machine
end

section
namespace Sys2Proof.Machine

/-! ### An instruction that begins with a String read of the register its byte names -/

section
variable {i : Instr} {b : Byte} {s : State} {k : Reg → Str → Result}
  (hexec : exec i s = withReg b s fun r => withStr r s (k r))
include hexec

/-- A String read of the register named raises TYPE_MISMATCH when it holds a Number (10 R14). -/
theorem raises_of_number {r : Reg} {n : Number} (hb : b = regByte r) (hn : s.regs[r] = .number n) :
    Raises i s .typeMismatch r.val := by
  subst hb
  rw [raises_iff, hexec, withReg_regByte, withStr_number hn]

/-- With a String in the register named, the instruction goes on with it. -/
theorem exec_of_string {r : Reg} {t : Str} (hb : b = regByte r) (ht : s.regs[r] = .string t) :
    exec i s = k r t := by
  subst hb
  rw [hexec, withReg_regByte, withStr_string ht]

end

/-! ### STRING_STORE -/

theorem exec_stringStore (b : Byte) (lit : Str) (s : State) : exec (.stringStore b lit) s =
    withReg b s fun d => .next ((s.setReg d (.string lit)).advance (4 + lit.length)) := rfl

theorem exec_stringStore_regByte (d : Reg) (lit : Str) (s : State) : exec (.stringStore (regByte d) lit) s =
    .next ((s.setReg d (.string lit)).advance (4 + lit.length)) := by
  rw [exec_stringStore, withReg_regByte]

/-- Settles O22: the operand bytes are a register byte and a literal of the length its two length bytes give; after
the check of the register byte the instruction always ends. -/
theorem stringStoreInstallsLiteral : Obligations.StringStoreInstallsLiteral := by
  intro s b lo hi lit hlen
  have hbad := raises_of_badByte (exec_stringStore b lit s)
  refine ⟨decodesAs_of_decodeOperands rfl fun rest => ?_, hbad, fun d hd => ?_⟩
  · exact takeRS_literal .stringStore .stringStore b lo hi lit rest hlen
  · subst hd
    exact exec_stringStore_regByte d lit s

/-! ### STRING_TOINT -/

theorem exec_stringToint (b : Byte) (s : State) : exec (.stringToint b) s =
    withReg b s fun r => withStr r s fun t => .next ((s.setReg r (.number (parseDec t))).advance 2) := rfl

/-- A text that begins with no digit has no digits to read. -/
theorem parseDigits_of_head {t : Str} (h : ∀ c, t.head? = some c → ¬ (0x30 ≤ c.toNat ∧ c.toNat ≤ 0x39)) (v : Nat) :
    parseDigits v t = v :=
  parseDigits_append [] t (fun _ hmem => absurd hmem List.not_mem_nil) h v

/-- A text that begins with neither white space, sign nor digit is no number, and reads as 0 (44 R147). -/
theorem parseDec_of_head_nonnumeric {t : Str}
    (h : ∀ c, t.head? = some c → ¬ SpaceByte c ∧ c ≠ 0x2D ∧ c ≠ 0x2B ∧ ¬ (0x30 ≤ c.toNat ∧ c.toNat ≤ 0x39)) :
    parseDec t = 0 := by
  have hspace : skipSpaces t = t := skipSpaces_of_head t fun c hc => by
    obtain ⟨hspace, _⟩ := h c hc
    exact hspace
  have hsign : parseSigned t = parseDigits 0 t := parseSigned_unsigned t fun c hc => by
    obtain ⟨_, hminus, hplus, _⟩ := h c hc
    exact ⟨hminus, hplus⟩
  have hdigits : parseDigits 0 t = 0 := parseDigits_of_head (fun c hc => by
    obtain ⟨_, _, _, hdigit⟩ := h c hc
    exact hdigit) 0
  rw [parseDec, hspace, hsign, hdigits]
  rfl

/-- Settles O26: a String read of the register, which then gets the number of its text; Z is not touched. -/
theorem stringToIntConverts : Obligations.StringToIntConverts := by
  intro s b
  have hexec := exec_stringToint b s
  exact ⟨decodesAs_of_decodeOperands rfl fun _ => rfl, raises_of_badByte hexec,
    fun _ _ => raises_of_number hexec,
    fun _ _ hr ht => ⟨exec_of_string hexec hr ht, parseDec_of_head_nonnumeric⟩⟩

end Sys2Proof.Machine
end

section
namespace Sys2Proof.Machine

/-! ### CMP_REG -/

theorem exec_cmpReg (b1 b2 : Byte) (s : State) : exec (.cmpReg b1 b2) s =
    withReg b1 s fun a => withReg b2 s fun b => .next ((s.setZ (sameValue (s.reg a) (s.reg b))).advance 3) := rfl

/-- With its first register byte legal, CMP_REG goes on with the check of the second (45 R150). -/
theorem exec_cmpReg_regByte_left (a : Reg) (b2 : Byte) (s : State) : exec (.cmpReg (regByte a) b2) s =
    withReg b2 s fun b => .next ((s.setZ (sameValue (s.reg a) (s.reg b))).advance 3) := by
  rw [exec_cmpReg, withReg_regByte]

/-- Whatever variants the two registers hold, CMP_REG ends, with Z the equality of their words (45 R150). -/
theorem exec_cmpReg_regByte (a b : Reg) (s : State) : exec (.cmpReg (regByte a) (regByte b)) s =
    .next ((s.setZ (decide (s.reg a = s.reg b))).advance 3) := by
  rw [exec_cmpReg_regByte_left, withReg_regByte, sameValue_eq]

/-- Settles O27: the two register checks in order, and then the comparison, which reads no variant. -/
theorem cmpRegComparesWords : Obligations.CmpRegComparesWords :=
  ⟨fun _ _ => decodesAs_of_decodeOperands rfl fun _ => rfl,
    fun s b1 b2 => raises_of_badByte (exec_cmpReg b1 b2 s),
    fun s a b2 => raises_of_badByte (exec_cmpReg_regByte_left a b2 s),
    fun s a b => exec_cmpReg_regByte a b s⟩

/-! ### IS_STRING, IS_NUMBER -/

theorem exec_isString (b : Byte) (s : State) : exec (.isString b) s =
    withReg b s fun r => .next ((s.setZ (isStringValue (s.reg r))).advance 2) := rfl

theorem exec_isNumber (b : Byte) (s : State) : exec (.isNumber b) s =
    withReg b s fun r => .next ((s.setZ (isNumberValue (s.reg r))).advance 2) := rfl

/-- An instruction that sets Z from a test of one register ends with Z the test of what that register holds. -/
theorem completes_of_registerTest {i : Instr} {b : Byte} {s : State} {test : Value → Bool}
    (hexec : exec i s = withReg b s fun r => .next ((s.setZ (test (s.reg r))).advance 2))
    {r : Reg} {v : Value} (hb : b = regByte r) (hv : s.regs[r] = v) :
    Completes i s { s with z := test v, ip := s.ip + 2 } := by
  subst hb hv
  exact hexec.trans (withReg_regByte r s _)

/-- Settles O29: after the check of the register byte, Z is the test of the register's variant, which is true of a
String for IS_STRING alone and of a Number for IS_NUMBER alone. -/
theorem variantTestsSetZ : Obligations.VariantTestsSetZ := by
  intro s b
  have hstr := exec_isString b s
  have hnum := exec_isNumber b s
  exact ⟨decodesAs_of_decodeOperands rfl fun _ => rfl, decodesAs_of_decodeOperands rfl fun _ => rfl,
    fun hb => ⟨raises_of_badByte hstr hb, raises_of_badByte hnum hb⟩,
    fun _ _ hr ht => ⟨completes_of_registerTest hstr hr ht, completes_of_registerTest hnum hr ht⟩,
    fun _ _ hr hn => ⟨completes_of_registerTest hstr hr hn, completes_of_registerTest hnum hr hn⟩⟩

end Sys2Proof.Machine
end

section
namespace Sys2Proof.Machine

/-! ### STACK_POP -/

theorem exec_stackPop (b : Byte) (s : State) : exec (.stackPop b) s =
    withReg b s fun d => withPop s fun v t => .next ((t.setReg d (.number v)).advance 2) := rfl

/-- With a legal register byte, STACK_POP goes on with the pop (48 R176). -/
theorem exec_stackPop_regByte (d : Reg) (s : State) : exec (.stackPop (regByte d)) s =
    withPop s fun v t => .next ((t.setReg d (.number v)).advance 2) := by
  rw [exec_stackPop, withReg_regByte]

theorem stackPop_raises_of_empty (d : Reg) {s : State} (hsp : s.sp.val = 0) :
    Raises (.stackPop (regByte d)) s .stackUnderflow 0 := by
  rw [raises_iff, exec_stackPop_regByte, withPop_of_empty hsp]

/-- From a stack of `k + 1`, STACK_POP ends with slot `k` in its register, whose old word it never reads. -/
theorem stackPop_completes (d : Reg) {s : State} {k : Nat} (hk : k < 1024) (hsp : s.sp.val = k + 1) :
    Completes (.stackPop (regByte d)) s
      { s with regs := s.regs.set d (.number s.stack[k]), sp := ⟨k, Nat.lt_succ_of_lt hk⟩, ip := s.ip + 2 } := by
  obtain ⟨hpopped, hslot⟩ := State.popped_eq hk hsp
  have hpos : s.sp.val ≠ 0 := by omega
  rw [Completes, exec_stackPop_regByte, withPop_of_pos hpos, hpopped, hslot]
  rfl

/-- Settles O39: after the check of the register byte, the pop underflows or gives its top slot to the register. -/
theorem popLoadsNumber : Obligations.PopLoadsNumber := by
  intro s b
  refine ⟨decodesAs_of_decodeOperands rfl fun _ => rfl, raises_of_badByte (exec_stackPop b s),
    fun d hd hsp => ?_, fun d k hk hd hsp => ?_⟩
  · subst hd
    exact stackPop_raises_of_empty d hsp
  · subst hd
    exact stackPop_completes d hk hsp

end Sys2Proof.Machine
end

section
namespace Sys2Proof.Machine

/-! ### Two runs of one instruction -/

/-- Whatever next states two meanings answer, `R` holds of them. -/
def NextsRelated (R : State → State → Prop) (r r' : Result) : Prop :=
  ∀ t t' : State, r = .next t → r' = .next t' → R t t'

section
variable {R : State → State → Prop} {s s' : State}

theorem nextsRelated_next {t t' : State} (h : R t t') : NextsRelated R (.next t) (.next t') := by
  rintro _ _ ⟨⟩ ⟨⟩
  exact h

variable (hpanic : ∀ p : Panic, R (s.takePanic p) (s'.takePanic p))
include hpanic

theorem nextsRelated_raise (c : Cause) (info : Int) : NextsRelated R (raise s c info) (raise s' c info) :=
  nextsRelated_next (hpanic ⟨c, info⟩)

theorem nextsRelated_withReg (b : Byte) {k k' : Reg → Result} (h : ∀ r, NextsRelated R (k r) (k' r)) :
    NextsRelated R (withReg b s k) (withReg b s' k') := by
  obtain ⟨r, rfl⟩ | hb := byte_cases b
  · rw [withReg_reg, withReg_reg]
    exact h r
  · rw [withReg_of_bad hb, withReg_of_bad hb]
    exact nextsRelated_raise hpanic _ _

theorem nextsRelated_withNum {i : Reg} (hi : s'.reg i = s.reg i) {k k' : Number → Result}
    (h : ∀ n, NextsRelated R (k n) (k' n)) : NextsRelated R (withNum i s k) (withNum i s' k') := by
  cases hv : s.reg i with
  | number n =>
    rw [withNum_number hv, withNum_number (hi.trans hv)]
    exact h n
  | string t =>
    rw [withNum_string hv, withNum_string (hi.trans hv)]
    exact nextsRelated_raise hpanic _ _

theorem nextsRelated_withCopyAddress (a : Number) {k k' : Nat → Result} (h : ∀ n, NextsRelated R (k n) (k' n)) :
    NextsRelated R (withCopyAddress a s k) (withCopyAddress a s' k') := by
  obtain ha | ha := Int.lt_or_le a.toInt 0
  · rw [withCopyAddress_of_neg ha, withCopyAddress_of_neg ha]
    exact nextsRelated_raise hpanic _ _
  · rw [withCopyAddress_of_nonneg ha, withCopyAddress_of_nonneg ha]
    exact h _

end

/-! ### MEMCPY and byte 65535 -/

/-- Two memories alike in every byte but the top one (70 R246). -/
def AlikeBelowTop (m m' : Memory) : Prop := ∀ c : Addr, c ≠ 65535 → m.read c = m'.read c

/-- No copy index is 65535 (47 R167). -/
theorem copyIndex_ne_top (k : Nat) : (BitVec.ofNat 16 (k % Config.copyWrap) : Addr) ≠ 65535 := by
  intro h
  have htoNat : k % 65535 % 65536 = 65535 := congrArg BitVec.toNat h
  omega

/-- One byte written alike to two memories that are alike below the top leaves them so. -/
theorem AlikeBelowTop.write {m m' : Memory} (h : AlikeBelowTop m m') (hwf : m.wf = true) (hwf' : m'.wf = true)
    (a : Addr) {v v' : Byte} (hv : v = v') : AlikeBelowTop (m.write a v) (m'.write a v') := by
  intro c hc
  rw [Memory.read_write hwf, Memory.read_write hwf', hv, h c hc]

/-- The copy reads no top byte, so it keeps memories alike below it. -/
theorem AlikeBelowTop.copy : ∀ (n src dst : Nat) {m m' : Memory}, AlikeBelowTop m m' → m.wf = true →
    m'.wf = true → AlikeBelowTop (Memory.copy Config.copyWrap n src dst m) (Memory.copy Config.copyWrap n src dst m')
  | 0, _, _, _, _, h, _, _ => h
  | n + 1, src, dst, _, _, h, hwf, hwf' =>
    AlikeBelowTop.copy n (src + 1) (dst + 1) (h.write hwf hwf' _ (h _ (copyIndex_ne_top src)))
      (Memory.write_wf hwf _ _) (Memory.write_wf hwf' _ _)

/-- MEMCPY does not store to the top byte (47 R167). -/
theorem not_storesTo_memcpy_top (b1 b2 b3 : Byte) (s : State) : ¬ StoresTo (.memcpy b1 b2 b3) s 65535 := by
  rintro ⟨_, _, d, _, _, _, _, _, k, _, hk⟩
  have htop : ((65535 : Addr).toNat : Int) = 65535 := rfl
  omega

theorem exec_memcpy (b1 b2 b3 : Byte) (s : State) : exec (.memcpy b1 b2 b3) s =
    withReg b1 s fun dr => withReg b2 s fun sr => withReg b3 s fun lr =>
    withNum sr s fun sv => withNum dr s fun dv => withNum lr s fun n =>
    withCopyAddress sv s fun src => withCopyAddress dv s fun dst =>
    .next ((s.setMem (Memory.copy Config.copyWrap n.toInt.toNat src dst s.mem)).advance 4) := rfl

/-- From two states with the same registers, and memories alike below the top, MEMCPY gives memories alike below
the top: it panics from both or copies in both. -/
theorem memcpy_alikeBelowTop (b1 b2 b3 : Byte) {s s' : State} (hregs : s'.regs = s.regs)
    (hmem : AlikeBelowTop s.mem s'.mem) (hwf : s.mem.wf = true) (hwf' : s'.mem.wf = true) :
    NextsRelated (fun t t' => AlikeBelowTop t.mem t'.mem) (exec (.memcpy b1 b2 b3) s)
      (exec (.memcpy b1 b2 b3) s') := by
  have hreg : ∀ i, s'.reg i = s.reg i := fun i => by rw [State.reg, hregs, State.reg]
  have hpanic : ∀ p : Panic, AlikeBelowTop (s.takePanic p).mem (s'.takePanic p).mem := fun _ => hmem
  rw [exec_memcpy, exec_memcpy]
  refine nextsRelated_withReg hpanic b1 fun dr => nextsRelated_withReg hpanic b2 fun sr =>
    nextsRelated_withReg hpanic b3 fun lr => nextsRelated_withNum hpanic (hreg sr) fun sv =>
    nextsRelated_withNum hpanic (hreg dr) fun dv => nextsRelated_withNum hpanic (hreg lr) fun n =>
    nextsRelated_withCopyAddress hpanic sv fun src => nextsRelated_withCopyAddress hpanic dv fun dst =>
    nextsRelated_next ?_
  exact hmem.copy n.toInt.toNat src dst hwf hwf'

/-- The copy takes source and destination modulo `wrap` (47 R167). -/
theorem Memory.copy_congr {wrap src src' dst dst' : Nat} (hsrc : src % wrap = src' % wrap)
    (hdst : dst % wrap = dst' % wrap) (n : Nat) (m : Memory) :
    Memory.copy wrap n src dst m = Memory.copy wrap n src' dst' m := by
  have hsrcs : ∀ k, (src + k) % wrap = (src' + k) % wrap := fun k => by
    rw [Nat.add_mod, hsrc, ← Nat.add_mod]
  have hdsts : ∀ k, (dst + k) % wrap = (dst' + k) % wrap := fun k => by
    rw [Nat.add_mod, hdst, ← Nat.add_mod]
  simp only [Memory.copy_eq_foldl, hsrcs, hdsts]

/-- With its three register bytes legal, MEMCPY goes on with the typed reads (47 R167). -/
theorem exec_memcpy_regByte (dr sr lr : Reg) (s : State) :
    exec (.memcpy (regByte dr) (regByte sr) (regByte lr)) s =
      withNum sr s fun sv => withNum dr s fun dv => withNum lr s fun n =>
      withCopyAddress sv s fun src => withCopyAddress dv s fun dst =>
      .next ((s.setMem (Memory.copy Config.copyWrap n.toInt.toNat src dst s.mem)).advance 4) := by
  rw [exec_memcpy, withReg_regByte, withReg_regByte, withReg_regByte]

/-- A copy address that is a natural is taken as that natural (47 R167). -/
theorem withCopyAddress_of_nat {a : Number} {n : Nat} (h : a.toInt = n) (s : State) (k : Nat → Result) :
    withCopyAddress a s k = k n := by
  rw [withCopyAddress_of_nonneg (h ▸ Int.natCast_nonneg n), h, Int.toNat_natCast]

section
variable {s : State} {top zero : Reg} {a z : Number} (htop : s.regs[top] = .number a) (ha : a.toInt = 65535)
  (hzero : s.regs[zero] = .number z) (hz : z.toInt = 0)
include htop ha hzero hz

/-- MEMCPY from address 65535 is MEMCPY from address 0 (70 R246). -/
theorem memcpy_source_top_eq_zero (dr lr : Reg) :
    exec (.memcpy (regByte dr) (regByte top) (regByte lr)) s =
      exec (.memcpy (regByte dr) (regByte zero) (regByte lr)) s := by
  have hcopy : ∀ n dst m, Memory.copy Config.copyWrap n 65535 dst m = Memory.copy Config.copyWrap n 0 dst m :=
    fun n _ m => Memory.copy_congr (src := 65535) (src' := 0) rfl rfl n m
  simp only [exec_memcpy_regByte, withNum_number htop, withNum_number hzero,
    withCopyAddress_of_nat (n := 65535) ha, withCopyAddress_of_nat (n := 0) hz, hcopy]

/-- MEMCPY to address 65535 is MEMCPY to address 0 (70 R246). -/
theorem memcpy_destination_top_eq_zero (sr lr : Reg) :
    exec (.memcpy (regByte top) (regByte sr) (regByte lr)) s =
      exec (.memcpy (regByte zero) (regByte sr) (regByte lr)) s := by
  have hcopy : ∀ n src m, Memory.copy Config.copyWrap n src 65535 m = Memory.copy Config.copyWrap n src 0 m :=
    fun n _ m => Memory.copy_congr (dst := 65535) (dst' := 0) rfl rfl n m
  simp only [exec_memcpy_regByte, withNum_number htop, withNum_number hzero,
    withCopyAddress_of_nat (n := 65535) ha, withCopyAddress_of_nat (n := 0) hz, hcopy]

end

/-! ### PEEK and POKE in range -/

theorem exec_peek (b1 b2 : Byte) (s : State) : exec (.peek b1 b2) s =
    withReg b1 s fun d => withReg b2 s fun ar => withNum ar s fun a => withAddress a s fun addr =>
    .next ((s.setReg d (.number (ofByte (s.mem.read addr)))).advance 3) := rfl

theorem exec_poke (b1 b2 : Byte) (s : State) : exec (.poke b1 b2) s =
    withReg b1 s fun vr => withReg b2 s fun ar => withNum vr s fun v => withNum ar s fun a =>
    withAddress a s fun addr => .next ((s.setMem (s.mem.write addr (lowByteOf v))).advance 3) := rfl

/-- PEEK of an address in range ends with the byte there, zero-extended, in its destination (47 R165). -/
theorem peek_completes (d : Reg) {s : State} {ar : Reg} {a : Number} {addr : Addr} (hreg : s.regs[ar] = .number a)
    (ha : a.toInt = addr.toNat) : Completes (.peek (regByte d) (regByte ar)) s
      { s with regs := s.regs.set d (.number (ofByte (s.mem.read addr))), ip := s.ip + 3 } := by
  rw [Completes, exec_peek, withReg_regByte, withReg_regByte, withNum_number hreg, withAddress_of_range ha]
  rfl

/-- POKE to an address in range ends with the low byte of the value stored there (47 R166). -/
theorem poke_completes {s : State} {vr ar : Reg} {v a : Number} {addr : Addr} (hval : s.regs[vr] = .number v)
    (hreg : s.regs[ar] = .number a) (ha : a.toInt = addr.toNat) : Completes (.poke (regByte vr) (regByte ar)) s
      { s with mem := s.mem.write addr (lowByteOf v), ip := s.ip + 3 } := by
  rw [Completes, exec_poke, withReg_regByte, withReg_regByte, withNum_number hval, withNum_number hreg,
    withAddress_of_range ha]
  rfl

/-- Settles O36: the copy indices stay below 65535, so MEMCPY neither writes nor reads the top byte and takes 65535
as 0, while PEEK and POKE take it as any address in range. -/
theorem memcpyCannotReachTopByte : Obligations.MemcpyCannotReachTopByte := by
  refine ⟨fun s t b1 b2 b3 hexec => ?_, fun s s' t t' b1 b2 b3 hwf hwf' hs hmem hexec hexec' => ?_,
    fun s r lr top zero a z htop ha hzero hz => ?_, fun s d ar a hreg ha => ?_,
    fun s vr ar v a hwf hval hreg ha => ?_⟩
  · exact onlyStoredBytesChange s t _ 65535 hexec (not_storesTo_memcpy_top b1 b2 b3 s)
  · have hregs : s'.regs = s.regs := by rw [hs]
    exact memcpy_alikeBelowTop b1 b2 b3 hregs hmem hwf hwf' t t' hexec hexec'
  · exact ⟨memcpy_source_top_eq_zero htop ha hzero hz r lr, memcpy_destination_top_eq_zero htop ha hzero hz r lr⟩
  · exact ⟨_, ofByte_toInt _, peek_completes d hreg (addr := 65535) ha⟩
  · refine ⟨_, poke_completes hval hreg (addr := 65535) ha, ?_⟩
    rw [Memory.read_write_same hwf, lowByteOf_toNat]

/-! ### The frame of Z -/

/-- Every instruction outside the MATH and comparison families that runs to its end keeps Z. -/
theorem exec_ends_keepsZ (i : Instr) (s : State) (hi : writesZ i = false) :
    Ends i (fun t => t.z = s.z) s (exec i s) := by
  cases i with
  | mathXor | mathAdd | mathSub | mathMul | mathDiv | mathInc | mathDec | mathAnd | mathOr | mathLft | mathRgt
  | cmpReg | cmpImmediate | cmpString | isString | isNumber => cases hi
  | exit => exact (execExit_ends s).mono (by rintro _ rfl; rfl)
  | nop => exact (execNop_ends s).mono (by rintro _ rfl; rfl)
  | intStore r1 imm => exact (execIntStore_ends r1 imm s).mono (by rintro _ ⟨_, _, rfl⟩; rfl)
  | intPrint r1 => exact (execIntPrint_ends r1 s).mono (by rintro _ ⟨_, rfl⟩; rfl)
  | intTostring r1 => exact (execIntTostring_ends r1 s).mono (by rintro _ ⟨_, _, _, rfl⟩; rfl)
  | intRandom r1 => exact (execIntRandom_ends r1 s).mono (by rintro _ ⟨_, _, rfl⟩; rfl)
  | jumpTo imm => exact (execJumpTo_ends imm s).mono (by rintro _ rfl; rfl)
  | jumpZ imm => exact (execJumpZ_ends imm s).mono (by rintro _ (rfl | rfl) <;> rfl)
  | jumpNz imm => exact (execJumpNz_ends imm s).mono (by rintro _ (rfl | rfl) <;> rfl)
  | stringStore r1 lit => exact (execStringStore_ends r1 lit s).mono (by rintro _ ⟨_, _, rfl⟩; rfl)
  | stringPrint r1 => exact (execStringPrint_ends r1 s).mono (by rintro _ ⟨_, rfl⟩; rfl)
  | stringConcat r1 r2 r3 => exact (execStringConcat_ends r1 r2 r3 s).mono (by rintro _ ⟨_, _, _, rfl⟩; rfl)
  | stringSystem r1 => exact (execStringSystem_ends r1 s).mono (by rintro _ ⟨_, ⟨_, rfl⟩ | ⟨_, rfl⟩⟩ <;> rfl)
  | stringToint r1 => exact (execStringToint_ends r1 s).mono (by rintro _ ⟨_, _, _, rfl⟩; rfl)
  | storeReg r1 r2 => exact (execStoreReg_ends r1 r2 s).mono (by rintro _ ⟨_, _, _, rfl⟩; rfl)
  | peek r1 r2 => exact (execPeek_ends r1 r2 s).mono (by rintro _ ⟨_, _, _, rfl⟩; rfl)
  | poke r1 r2 => exact (execPoke_ends r1 r2 s).mono (by rintro _ ⟨_, _, _, _, _, _, _, rfl⟩; rfl)
  | memcpy r1 r2 r3 => exact (execMemcpy_ends r1 r2 r3 s).mono (by
      rintro _ ⟨_, _, _, _, _, _, _, _, _, _, rfl⟩; rfl)
  | stackPush r1 => exact (execStackPush_ends r1 s).mono (by rintro _ ⟨_, _, rfl⟩; rfl)
  | stackPop r1 => exact (execStackPop_ends r1 s).mono (by rintro _ ⟨_, _, _, rfl⟩; rfl)
  | stackRet => exact (execStackRet_ends s).mono (by rintro _ ⟨_, rfl⟩; rfl)
  | stackCall imm => exact (execStackCall_ends imm s).mono (by rintro _ ⟨_, rfl⟩; rfl)
  | unknown b => exact (execUnknown_ends b s).mono (by rintro _ rfl; rfl)

/-- Settles O48: a panic keeps Z (60 R204), and so does the end of every instruction that is listed as no writer. -/
theorem onlyMathAndCompareWriteZ : Obligations.OnlyMathAndCompareWriteZ := by
  intro s t i hexec hi
  have hends := exec_ends_keepsZ i s hi
  rw [hexec] at hends
  obtain ⟨p, _, rfl⟩ | hz := hends.of_next
  · exact s.takePanic_z p
  · exact hz

/-! ### The host's commands, by phase -/

theorem State.accept_run_of_ready {s : State} (h : s.phase = .loaded ∨ s.phase = .stopped) (cap : Int) :
    s.accept (.run cap) = (s.startRun cap, .started) := if_pos h

/-- A CREATE succeeds for an image of legal length alone, and leaves that image in memory (70 R230, R231). -/
theorem State.created_of_accept_create {s t : State} {image : List Byte} {fz : Bool}
    (h : s.accept (.create image fz) = (t, .created)) : image.length ≤ 65535 ∧ t = s.created image fz := by
  by_cases hp : s.phase = .executing
  · rw [State.accept_create_of_executing hp] at h
    cases h
  · rw [State.accept_create_of_not_executing hp] at h
    by_cases hlen : 1 ≤ image.length ∧ image.length ≤ 65535
    · rw [State.create_of_legal hlen.1 hlen.2] at h
      cases h
      exact ⟨hlen.2, rfl⟩
    · rw [State.create_of_illegal (by omega)] at h
      cases h

/-- The byte at address 0 of an image in memory is its first (70 R230). -/
theorem Memory.head?_eq_read_ofImage {image : List Byte} (hpos : 1 ≤ image.length) (hlen : image.length ≤ 65535) :
    image.head? = some ((Memory.ofImage 0 image).read 0) := by
  have hread : (Memory.ofImage 0 image).read 0 = image[0] := Memory.read_ofImage_of_lt (by omega) hpos
  rw [List.head?_eq_getElem?, List.getElem?_eq_getElem hpos, hread]

/-- The first step of a run dispatches the instruction at address 0 (40 R91, 70 R233). -/
theorem step_startRun (cap : Int) (s : State) : ∃ (i : Instr) (v : State),
    decode (fetch Config.opc s.mem 0) = .ok (i, []) ∧ exec i (s.startRun cap) = .next v ∧
      step (s.startRun cap) = afterExec (.next v) := by
  obtain ⟨i, hdec⟩ := decodeWith_fetch Config.opc s.mem 0
  obtain ⟨v, hexec, _⟩ := exec_cases i (s.startRun cap)
  exact ⟨i, v, hdec, hexec, stepWith_of_decode rfl rfl hdec hexec⟩

/-- Settles O55: a CREATE that succeeds leaves the image below byte 65535, and the first step of a RUN fetches it
from address 0, where every byte sequence decodes. -/
theorem everyLegalImageIsAProgram : Obligations.EveryLegalImageIsAProgram := by
  refine ⟨fun s t image fz haccept => ?_, fun s image fz cap hp hpos hlen => ?_⟩
  · obtain ⟨hlen, rfl⟩ := State.created_of_accept_create haccept
    exact ⟨Memory.read_ofImage_of_ge (by omega) hlen, hlen⟩
  · have hcreate : s.accept (.create image fz) = (s.created image fz, .created) := by
      rw [State.accept_create_of_not_executing hp, State.create_of_legal hpos hlen]
    exact ⟨s.created image fz, (s.created image fz).startRun cap, hcreate,
      State.accept_run_of_ready (.inl rfl) cap, rfl, rfl, Memory.head?_eq_read_ofImage hpos hlen,
      step_startRun cap _⟩

/-! ### Who moves in which phase -/

/-- A step inside a run leaves what is the host's: the commands to come, the answers given, the configuration and the
cap (10 R33, 70 R240). -/
theorem stepWith_executing_keepsHost {opc : OpcodeMap} {s t : State} (hp : s.phase = .executing)
    (h : stepWith opc s = .next t) :
    t.pending = s.pending ∧ t.replies = s.replies ∧ t.fuzzSafe = s.fuzzSafe ∧ t.cap = s.cap := by
  obtain ⟨hnot, _⟩ | ⟨_, _, hleft⟩ | ⟨_, _, i, u, _, hexec, hdispatch⟩ := stepWith_cases opc s
  · exact absurd hp hnot
  · cases hleft.symm.trans h
    exact ⟨rfl, rfl, rfl, rfl⟩
  · cases hdispatch.symm.trans h
    rw [u.afterDispatch_only]
    obtain ⟨p, rfl⟩ | ⟨ho, _⟩ := exec_next_cases hexec
    · exact ⟨rfl, rfl, rfl, rfl⟩
    · exact ⟨ho.pending, ho.replies, ho.fuzzSafe, ho.cap⟩

theorem stepWith_of_not_executing {s : State} (hp : s.phase ≠ .executing) (opc : OpcodeMap) :
    stepWith opc s = .next s.hostMove := if_neg hp

/-- Settles O57: outside a run the step is the host's move, by its queue; inside one the loop's. -/
theorem hostActsOnlyOutsideRun : Obligations.HostActsOnlyOutsideRun := by
  intro opc s
  refine ⟨fun hp hnil => ?_, fun hp c rest hcons => ?_, fun hp t hstep => stepWith_executing_keepsHost hp hstep⟩
  · rw [stepWith_of_not_executing hp, State.hostMove_nil hnil]
  · obtain ⟨_, hpending, hreplies⟩ := State.accept_keepsWorld c { s with pending := rest }
    obtain ⟨t, r, haccept⟩ : ∃ t r, ({ s with pending := rest } : State).accept c = (t, r) := ⟨_, _, rfl⟩
    rw [haccept] at hpending hreplies
    refine ⟨t, r, haccept, hpending, ?_⟩
    rw [stepWith_of_not_executing hp, State.hostMove_cons hcons haccept, hreplies]

/-! ### RUN, DUMP and DESTROY -/

theorem State.accept_run_of_not_ready {s : State} (h : ¬ (s.phase = .loaded ∨ s.phase = .stopped)) (cap : Int) :
    s.accept (.run cap) = (s, .refused) := if_neg h

theorem State.accept_dump_of_readable {s : State}
    (h : s.phase = .loaded ∨ s.phase = .stopped ∨ s.phase = .panicked) :
    s.accept .dump = (s, .dumped s.regs s.z s.sp.val s.entries s.mem) := if_pos h

theorem State.accept_dump_of_not_readable {s : State}
    (h : ¬ (s.phase = .loaded ∨ s.phase = .stopped ∨ s.phase = .panicked)) :
    s.accept .dump = (s, .refused) := if_neg h

theorem State.accept_dump_fst (s : State) : (s.accept .dump).1 = s := by
  by_cases h : s.phase = .loaded ∨ s.phase = .stopped ∨ s.phase = .panicked
  · rw [State.accept_dump_of_readable h]
  · rw [State.accept_dump_of_not_readable h]

theorem State.accept_destroy_of_executing {s : State} (h : s.phase = .executing) :
    s.accept .destroy = (s, .refused) := if_pos h

theorem State.accept_destroy_of_not_executing {s : State} (h : s.phase ≠ .executing) :
    s.accept .destroy = (s.emptied, .destroyed) := if_neg h

/-- What DESTROY leaves depends on the host's own fields alone (70 R239, log 13). -/
theorem State.emptied_congr {s t : State} (hdraws : s.draws = t.draws) (hpending : s.pending = t.pending)
    (hreplies : s.replies = t.replies) : s.emptied = t.emptied := by
  rw [State.emptied, State.keepWorld, hdraws, hpending, hreplies]
  rfl

/-- Settles O56: each command by the phases it is accepted in, and by those it is refused in. -/
theorem runDumpDestroyCommands : Obligations.RunDumpDestroyCommands := by
  refine ⟨fun s cap => ⟨fun h => State.accept_run_of_ready h cap, fun h => ?_⟩,
    fun s => ⟨s.accept_dump_fst, fun h => ?_, fun h => ?_⟩,
    fun s h => State.accept_destroy_of_executing h, fun s t hs ht hdraws hpending hreplies => ?_⟩
  · exact State.accept_run_of_not_ready (by rcases h with h | h | h <;> simp [h]) cap
  · rw [State.accept_dump_of_readable h, State.entries]
  · rw [State.accept_dump_of_not_readable (by rcases h with h | h <;> simp [h])]
  · rw [State.accept_destroy_of_not_executing hs, State.accept_destroy_of_not_executing ht,
      State.emptied_congr hdraws hpending hreplies]
    exact ⟨rfl, rfl⟩

end Sys2Proof.Machine
end

section
namespace Sys2Proof.Machine

/-! ### The invariant and a run -/

/-- A state of the invariant outside phase PANICKED has latched no fault and shown none (10 R23, R31). -/
theorem State.Inv.no_fault {s : State} (h : s.Inv) (hp : s.phase ≠ .panicked) : s.fault = none ∧ s.panicCh = [] := by
  have hnone : s.fault = none := Option.not_isSome_iff_eq_none.mp (mt h.faultLatched.mpr hp)
  exact ⟨hnone, by rw [h.panicRecord, hnone]; rfl⟩

/-- The invariant of a state that has latched no fault: memory, `running` and the count are left to show. -/
theorem State.Inv.of_no_fault {t : State} (hfault : t.fault = none ∧ t.panicCh = []) (hp : t.phase ≠ .panicked)
    (hmem : t.mem.wf = true) (hrun : t.running = true ↔ t.phase = .loaded ∨ t.phase = .executing)
    (hbelow : t.phase = .executing → 0 < t.cap → (t.icount : Int) < t.cap)
    (habove : 0 < t.cap → (t.icount : Int) ≤ t.cap) : t.Inv := by
  obtain ⟨hnone, hempty⟩ := hfault
  exact ⟨hmem, by simp [hnone, hp], by simp [hnone, hempty], hrun, hbelow, habove⟩

/-- The invariant speaks of neither the commands to come nor the answers given. -/
theorem State.Inv.of_host_fields {s : State} (h : s.Inv) (pending : List Command) (replies : List Reply) :
    ({ s with pending := pending, replies := replies } : State).Inv :=
  ⟨h.memWf, h.faultLatched, h.panicRecord, h.runningPhase, h.belowCap, h.notAboveCap⟩

section
variable {s : State} (h : s.Inv) (hp : s.phase = .executing)
include h hp

/-- A panic during a run latches the first fault, and its record is the only one (60 R204). -/
theorem State.Inv.takePanic (p : Panic) : (s.takePanic p).Inv := by
  obtain ⟨_, hempty⟩ := h.no_fault (by simp [hp])
  exact ⟨h.memWf, by simp, by simp [hempty], by simp, by simp, h.notAboveCap⟩

/-- An instruction that runs to its end is counted below the cap, or ends the run at it (40 R93). -/
theorem State.Inv.afterDispatch {t : State} (ho : Ordinary s t) : t.afterDispatch.Inv := by
  have hphase : t.phase = .executing := ho.phase.trans hp
  have hnotPanicked : t.phase ≠ .panicked := by simp [hphase]
  have hfault : t.fault = none ∧ t.panicCh = [] := by
    rw [ho.fault, ho.panicCh]
    exact h.no_fault (by simp [hp])
  have hbelow : 0 < t.cap → (t.icount : Int) < t.cap := by
    rw [ho.cap, ho.icount]
    exact h.belowCap hp
  by_cases hends : t.LoopEnds
  · rw [State.afterDispatch_of_loopEnds hnotPanicked hends]
    exact .of_no_fault hfault (by simp) (ho.memWf h.memWf) (by simp) (by simp) fun hcap => hbelow hcap
  · rw [State.afterDispatch_of_not_loopEnds hnotPanicked hends]
    obtain ⟨hnotReached, hrunning⟩ := not_or.mp hends
    have hcount : 0 < t.cap → ((t.icount + 1 : Nat) : Int) < t.cap := by omega
    exact .of_no_fault hfault hnotPanicked (ho.memWf h.memWf) (by simp [hphase, eq_true_of_ne_false hrunning])
      (fun _ => hcount) fun hcap => Int.le_of_lt (hcount hcap)

end

/-! ### The invariant and the host's commands -/

theorem State.reset_inv : State.reset.Inv :=
  .of_no_fault ⟨rfl, rfl⟩ nofun rfl (by decide) nofun (by decide)

theorem State.created_inv {image : List Byte} (hlen : image.length ≤ 65535) (fz : Bool) (s : State) :
    (s.created image fz).Inv :=
  .of_no_fault ⟨rfl, rfl⟩ nofun (Memory.ofImage_wf (by omega)) (by simp [State.created, State.reset]) nofun
    State.reset_inv.notAboveCap

theorem State.emptied_inv (s : State) : s.emptied.Inv :=
  .of_no_fault ⟨rfl, rfl⟩ nofun rfl (by simp [State.emptied]) nofun State.reset_inv.notAboveCap

/-- A CREATE outside a run leaves a fresh machine or none. -/
theorem State.create_inv (image : List Byte) (fz : Bool) (s : State) : (s.create image fz).1.Inv := by
  by_cases hlen : 1 ≤ image.length ∧ image.length ≤ 65535
  · rw [State.create_of_legal hlen.1 hlen.2]
    exact State.created_inv hlen.2 fz s
  · rw [State.create_of_illegal (by omega)]
    exact s.emptied_inv

/-- A run starts in a phase with no fault latched, and counts from 0 (70 R233). -/
theorem State.Inv.startRun {s : State} (h : s.Inv) (hp : s.phase = .loaded ∨ s.phase = .stopped) (cap : Int) :
    (s.startRun cap).Inv :=
  .of_no_fault (h.no_fault (by rcases hp with hp | hp <;> simp [hp])) nofun h.memWf (by simp)
    (fun _ hcap => hcap) Int.le_of_lt

/-- Every host command keeps the invariant, in every phase. -/
theorem State.Inv.accept {s : State} (h : s.Inv) (c : Command) : (s.accept c).1.Inv := by
  cases c with
  | create image fz =>
    by_cases hp : s.phase = .executing
    · rwa [State.accept_create_of_executing hp]
    · rw [State.accept_create_of_not_executing hp]
      exact State.create_inv image fz s
  | run cap =>
    by_cases hp : s.phase = .loaded ∨ s.phase = .stopped
    · rw [State.accept_run_of_ready hp]
      exact h.startRun hp cap
    · rwa [State.accept_run_of_not_ready hp]
  | dump => rwa [State.accept_dump_fst]
  | destroy =>
    by_cases hp : s.phase = .executing
    · rwa [State.accept_destroy_of_executing hp]
    · rw [State.accept_destroy_of_not_executing hp]
      exact s.emptied_inv

theorem State.Inv.hostMove {s : State} (h : s.Inv) : s.hostMove.Inv := by
  cases hpending : s.pending with
  | nil => rwa [State.hostMove_nil hpending]
  | cons c rest =>
    rw [State.hostMove_cons hpending (Prod.eta _).symm]
    exact ((h.of_host_fields rest s.replies).accept c).of_host_fields _ _

/-- Settles O59: the host's move keeps the invariant, a run of the invariant is `running`, and a dispatch panics or
is counted. -/
theorem stepKeepsInvariant : Obligations.StepKeepsInvariant := by
  intro opc s t hinv hstep
  obtain ⟨_, hhost⟩ | ⟨hp, hr, _⟩ | ⟨hp, _, i, u, _, hexec, hdispatch⟩ := stepWith_cases opc s
  · cases hhost.symm.trans hstep
    exact hinv.hostMove
  · exact absurd (hinv.runningPhase.mpr (.inr hp)) (by simp [hr])
  · cases hdispatch.symm.trans hstep
    obtain ⟨p, rfl⟩ | ⟨ho, _⟩ := exec_next_cases hexec
    · rw [State.afterDispatch_of_panicked (s.takePanic_phase p)]
      exact hinv.takePanic hp p
    · exact hinv.afterDispatch hp ho

/-- Settles O58: reset meets the invariant, and a CREATE and a RUN keep it. -/
theorem resetMeetsInvariant : Obligations.ResetMeetsInvariant :=
  ⟨State.reset_inv, fun image cap _ _ => (State.reset_inv.accept (.create image false)).accept (.run cap)⟩

end Sys2Proof.Machine
end

section
namespace Sys2Proof.Machine

/-! ### Two runs of one instruction: the operand forms that reach memory and the stack -/

section
variable {R : State → State → Prop} {s s' : State} (hpanic : ∀ p : Panic, R (s.takePanic p) (s'.takePanic p))
include hpanic

theorem nextsRelated_withStr {i : Reg} (hi : s'.reg i = s.reg i) {k k' : Str → Result}
    (h : ∀ t, NextsRelated R (k t) (k' t)) : NextsRelated R (withStr i s k) (withStr i s' k') := by
  cases hv : s.reg i with
  | string t =>
    rw [withStr_string hv, withStr_string (hi.trans hv)]
    exact h t
  | number n =>
    rw [withStr_number hv, withStr_number (hi.trans hv)]
    exact nextsRelated_raise hpanic _ _

theorem nextsRelated_withAddress (a : Number) {k k' : Addr → Result} (h : ∀ addr, NextsRelated R (k addr) (k' addr)) :
    NextsRelated R (withAddress a s k) (withAddress a s' k') := by
  unfold withAddress
  split
  · exact nextsRelated_raise hpanic _ _
  · exact h _

theorem nextsRelated_withPush (v : Number) (hsp : s'.sp = s.sp) {k k' : State → Result}
    (h : ∀ (hs : s.sp.val < Config.stackSlots) (hs' : s'.sp.val < Config.stackSlots),
      NextsRelated R (k (s.pushed v hs)) (k' (s'.pushed v hs'))) :
    NextsRelated R (withPush v s k) (withPush v s' k') := by
  by_cases hs : s.sp.val < Config.stackSlots
  · rw [withPush_of_room hs, withPush_of_room (hsp ▸ hs)]
    exact h _ _
  · have hfull : s.sp.val = 1024 := Nat.le_antisymm (Nat.le_of_lt_succ s.sp.isLt) (Nat.le_of_not_lt hs)
    rw [withPush_of_full hfull, withPush_of_full (hsp ▸ hfull)]
    exact nextsRelated_raise hpanic _ _

theorem nextsRelated_withPop (hsp : s'.sp = s.sp) {k k' : Number → State → Result}
    (h : s.sp.val ≠ 0 → NextsRelated R (k (s.slot s.sp) s.popped) (k' (s'.slot s'.sp) s'.popped)) :
    NextsRelated R (withPop s k) (withPop s' k') := by
  by_cases hs : s.sp.val = 0
  · rw [withPop_of_empty hs, withPop_of_empty (hsp ▸ hs)]
    exact nextsRelated_raise hpanic _ _
  · rw [withPop_of_pos hs, withPop_of_pos (hsp ▸ hs)]
    exact h hs

theorem nextsRelated_threeOperands (hreg : ∀ i, s'.reg i = s.reg i) (r1 r2 r3 : Byte)
    {k k' : Reg → Reg → Number → Number → Result} (h : ∀ d x a b, NextsRelated R (k d x a b) (k' d x a b)) :
    NextsRelated R (threeOperands r1 r2 r3 s k) (threeOperands r1 r2 r3 s' k') :=
  nextsRelated_withReg hpanic r1 fun d => nextsRelated_withReg hpanic r2 fun s1 =>
  nextsRelated_withReg hpanic r3 fun s2 => nextsRelated_withNum hpanic (hreg s1) fun a =>
  nextsRelated_withNum hpanic (hreg s2) fun b => h d s2 a b

theorem nextsRelated_threeRegister (hreg : ∀ i, s'.reg i = s.reg i) (f : Number → Number → Number) (r1 r2 r3 : Byte)
    (h : ∀ d n, NextsRelated R (storeResult d n 4 s) (storeResult d n 4 s')) :
    NextsRelated R (threeRegister f r1 r2 r3 s) (threeRegister f r1 r2 r3 s') :=
  nextsRelated_threeOperands hpanic hreg r1 r2 r3 fun d _ a b => h d (f a b)

theorem nextsRelated_oneRegister (hreg : ∀ i, s'.reg i = s.reg i) (f : Number → Number) (r1 : Byte)
    (h : ∀ d n, NextsRelated R (storeResult d n 2 s) (storeResult d n 2 s')) :
    NextsRelated R (oneRegister f r1 s) (oneRegister f r1 s') :=
  nextsRelated_withReg hpanic r1 fun i => nextsRelated_withNum hpanic (hreg i) fun n => h i (f n)

end

theorem nextsRelated_jumpIf {R : State → State → Prop} {s s' : State} (c : Bool) (imm : Half)
    (htaken : R (s.setIp imm) (s'.setIp imm)) (hnot : R (s.advance 3) (s'.advance 3)) :
    NextsRelated R (jumpIf c imm s) (jumpIf c imm s') := by
  cases c
  · exact nextsRelated_next hnot
  · exact nextsRelated_next htaken

/-! ### Stale stack slots -/

/-- A run whose `running` is 0 is left to phase STOPPED (40 R90). -/
theorem stepWith_of_not_running {opc : OpcodeMap} {s : State} (hp : s.phase = .executing) (hr : s.running = false) :
    stepWith opc s = .next { s with phase := .stopped } := by
  simp [stepWith, hp, hr, State.loopTest]

/-- The state with another stack in it, `sp` staying where it is. -/
def State.withStack (s : State) (stack : Vector Number Config.stackSlots) : State := { s with stack := stack }

namespace AlikeBelowSp

theorem refl (s : State) : AlikeBelowSp s s := ⟨rfl, fun _ _ => rfl⟩

variable {s s' : State}

/-- Alike states are one state with two stacks. -/
theorem exists_stack (h : AlikeBelowSp s s') : ∃ stack, s' = s.withStack stack := ⟨s'.stack, h.1⟩

/-- The slot a push fills is the same in both, so alike states stay alike (48 R175). -/
theorem pushed (h : AlikeBelowSp s s') (v : Number) (hs : s.sp.val < Config.stackSlots)
    (hs' : s'.sp.val < Config.stackSlots) : AlikeBelowSp (s.pushed v hs) (s'.pushed v hs') := by
  obtain ⟨_, rfl⟩ := h.exists_stack
  refine ⟨rfl, fun k hk => ?_⟩
  simp only [State.pushed, State.withStack, Vector.getElem_set]
  split
  · rfl
  · exact h.2 k (by simp at hk; omega)

/-- The slots below a popped `sp` are among those below `sp`. -/
theorem popped (h : AlikeBelowSp s s') : AlikeBelowSp s.popped s'.popped := by
  obtain ⟨_, rfl⟩ := h.exists_stack
  exact ⟨rfl, fun k hk => h.2 k (Nat.lt_of_lt_of_le hk (Nat.sub_le _ _))⟩

/-- The slot a pop reads is at `sp`, so alike states give the same Number (48 R176). -/
theorem slot_sp (h : AlikeBelowSp s s') (hpos : s.sp.val ≠ 0) : s'.slot s'.sp = s.slot s.sp := by
  obtain ⟨_, rfl⟩ := h.exists_stack
  exact (h.2 (s.sp.val - 1) (by omega)).symm

/-- From alike states every instruction gives alike states: it fills the slot above `sp` or reads the slot at `sp`, and
nothing else of the stack. -/
theorem exec (h : AlikeBelowSp s s') (i : Instr) :
    NextsRelated AlikeBelowSp (Machine.exec i s) (Machine.exec i s') := by
  obtain ⟨stack, rfl⟩ := h.exists_stack
  have hslots := h.2
  have hpanic : ∀ p : Panic, AlikeBelowSp (s.takePanic p) ((s.withStack stack).takePanic p) :=
    fun _ => ⟨rfl, hslots⟩
  have hreg : ∀ i, (s.withStack stack).reg i = s.reg i := fun _ => rfl
  unfold Machine.exec
  cases i with
  | exit | nop | jumpTo | unknown => exact nextsRelated_next ⟨rfl, hslots⟩
  | jumpZ imm | jumpNz imm => exact nextsRelated_jumpIf _ imm ⟨rfl, hslots⟩ ⟨rfl, hslots⟩
  | intStore r1 | intRandom r1 | stringStore r1 | isString r1 | isNumber r1 =>
    exact nextsRelated_withReg hpanic r1 fun _ => nextsRelated_next ⟨rfl, hslots⟩
  | cmpReg r1 r2 | storeReg r1 r2 =>
    exact nextsRelated_withReg hpanic r1 fun _ => nextsRelated_withReg hpanic r2 fun _ =>
      nextsRelated_next ⟨rfl, hslots⟩
  | intPrint r1 | intTostring r1 | cmpImmediate r1 =>
    exact nextsRelated_withReg hpanic r1 fun _ => nextsRelated_withNum hpanic rfl fun _ =>
      nextsRelated_next ⟨rfl, hslots⟩
  | stringPrint r1 | stringToint r1 | cmpString r1 =>
    exact nextsRelated_withReg hpanic r1 fun _ => nextsRelated_withStr hpanic rfl fun _ =>
      nextsRelated_next ⟨rfl, hslots⟩
  | stringSystem r1 =>
    refine nextsRelated_withReg hpanic r1 fun _ => nextsRelated_withStr hpanic rfl fun _ => nextsRelated_next ?_
    have hsafe : (s.withStack stack).fuzzSafe = s.fuzzSafe := rfl
    rw [hsafe]
    cases s.fuzzSafe <;> exact ⟨rfl, hslots⟩
  | stringConcat r1 r2 r3 =>
    exact nextsRelated_withReg hpanic r1 fun _ => nextsRelated_withReg hpanic r2 fun _ =>
      nextsRelated_withReg hpanic r3 fun _ => nextsRelated_withStr hpanic rfl fun _ =>
      nextsRelated_withStr hpanic rfl fun _ => nextsRelated_next ⟨rfl, hslots⟩
  | mathXor r1 r2 r3 | mathAdd r1 r2 r3 | mathSub r1 r2 r3 | mathMul r1 r2 r3 | mathAnd r1 r2 r3
  | mathOr r1 r2 r3 | mathLft r1 r2 r3 | mathRgt r1 r2 r3 =>
    exact nextsRelated_threeRegister hpanic hreg _ r1 r2 r3 fun _ _ => nextsRelated_next ⟨rfl, hslots⟩
  | mathInc r1 | mathDec r1 =>
    exact nextsRelated_oneRegister hpanic hreg _ r1 fun _ _ => nextsRelated_next ⟨rfl, hslots⟩
  | mathDiv r1 r2 r3 =>
    refine nextsRelated_threeOperands hpanic hreg r1 r2 r3 fun _ _ _ b => ?_
    split
    · exact nextsRelated_raise hpanic _ _
    · exact nextsRelated_next ⟨rfl, hslots⟩
  | peek r1 r2 =>
    exact nextsRelated_withReg hpanic r1 fun _ => nextsRelated_withReg hpanic r2 fun _ =>
      nextsRelated_withNum hpanic rfl fun a => nextsRelated_withAddress hpanic a fun _ =>
      nextsRelated_next ⟨rfl, hslots⟩
  | poke r1 r2 =>
    exact nextsRelated_withReg hpanic r1 fun _ => nextsRelated_withReg hpanic r2 fun _ =>
      nextsRelated_withNum hpanic rfl fun _ => nextsRelated_withNum hpanic rfl fun a =>
      nextsRelated_withAddress hpanic a fun _ => nextsRelated_next ⟨rfl, hslots⟩
  | memcpy r1 r2 r3 =>
    exact nextsRelated_withReg hpanic r1 fun _ => nextsRelated_withReg hpanic r2 fun _ =>
      nextsRelated_withReg hpanic r3 fun _ => nextsRelated_withNum hpanic rfl fun sv =>
      nextsRelated_withNum hpanic rfl fun dv => nextsRelated_withNum hpanic rfl fun _ =>
      nextsRelated_withCopyAddress hpanic sv fun _ => nextsRelated_withCopyAddress hpanic dv fun _ =>
      nextsRelated_next ⟨rfl, hslots⟩
  | stackPush r1 =>
    refine nextsRelated_withReg hpanic r1 fun _ => nextsRelated_withNum hpanic rfl fun v =>
      nextsRelated_withPush hpanic v rfl fun hs hs' => nextsRelated_next ?_
    exact ⟨rfl, (h.pushed v hs hs').2⟩
  | stackCall imm =>
    refine nextsRelated_withPush hpanic _ rfl fun hs hs' => nextsRelated_next ?_
    exact ⟨rfl, (h.pushed _ hs hs').2⟩
  | stackPop r1 =>
    refine nextsRelated_withReg hpanic r1 fun _ => nextsRelated_withPop hpanic rfl fun hpos => ?_
    rw [h.slot_sp hpos]
    exact nextsRelated_next ⟨rfl, h.popped.2⟩
  | stackRet =>
    refine nextsRelated_withPop hpanic rfl fun hpos => ?_
    rw [h.slot_sp hpos]
    exact nextsRelated_next ⟨rfl, h.popped.2⟩

/-- The loop's count and test read no stack slot (40 R93). -/
theorem afterDispatch (h : AlikeBelowSp s s') : AlikeBelowSp s.afterDispatch s'.afterDispatch := by
  obtain ⟨stack, rfl⟩ := h.exists_stack
  have hslots := h.2
  by_cases hp : s.phase = .panicked
  · rwa [s.afterDispatch_of_panicked hp, (s.withStack stack).afterDispatch_of_panicked hp]
  · by_cases hends : s.LoopEnds
    · rw [s.afterDispatch_of_loopEnds hp hends, (s.withStack stack).afterDispatch_of_loopEnds hp hends]
      exact ⟨rfl, hslots⟩
    · rw [s.afterDispatch_of_not_loopEnds hp hends, (s.withStack stack).afterDispatch_of_not_loopEnds hp hends]
      exact ⟨rfl, hslots⟩

/-- A host command changes alike states alike and answers them alike: CREATE and DESTROY leave nothing of the stack,
and DUMP shows its entries only (70 R230, R238, R239). -/
theorem accept (h : AlikeBelowSp s s') (c : Command) :
    AlikeBelowSp (s.accept c).1 (s'.accept c).1 ∧ (s.accept c).2 = (s'.accept c).2 := by
  have hentries := h.entries_eq
  obtain ⟨stack, rfl⟩ := h.exists_stack
  have hslots := h.2
  cases c with
  | create image fz =>
    by_cases hp : s.phase = .executing
    · rw [State.accept_create_of_executing hp, State.accept_create_of_executing (s := s.withStack stack) hp]
      exact ⟨h, rfl⟩
    · rw [State.accept_create_of_not_executing hp, State.accept_create_of_not_executing (s := s.withStack stack) hp]
      exact ⟨refl (s.create image fz).1, rfl⟩
  | run cap =>
    by_cases hp : s.phase = .loaded ∨ s.phase = .stopped
    · rw [State.accept_run_of_ready hp, State.accept_run_of_ready (s := s.withStack stack) hp]
      exact ⟨⟨rfl, hslots⟩, rfl⟩
    · rw [State.accept_run_of_not_ready hp, State.accept_run_of_not_ready (s := s.withStack stack) hp]
      exact ⟨h, rfl⟩
  | dump =>
    by_cases hp : s.phase = .loaded ∨ s.phase = .stopped ∨ s.phase = .panicked
    · rw [State.accept_dump_of_readable hp, State.accept_dump_of_readable (s := s.withStack stack) hp, ← hentries]
      exact ⟨h, rfl⟩
    · rw [State.accept_dump_of_not_readable hp, State.accept_dump_of_not_readable (s := s.withStack stack) hp]
      exact ⟨h, rfl⟩
  | destroy =>
    by_cases hp : s.phase = .executing
    · rw [State.accept_destroy_of_executing hp, State.accept_destroy_of_executing (s := s.withStack stack) hp]
      exact ⟨h, rfl⟩
    · rw [State.accept_destroy_of_not_executing hp, State.accept_destroy_of_not_executing (s := s.withStack stack) hp]
      exact ⟨refl s.emptied, rfl⟩

theorem with_pending (h : AlikeBelowSp s s') (pending : List Command) :
    AlikeBelowSp { s with pending := pending } { s' with pending := pending } := by
  obtain ⟨stack, rfl⟩ := h.exists_stack
  exact ⟨rfl, h.2⟩

theorem with_reply (h : AlikeBelowSp s s') (r : Reply) :
    AlikeBelowSp { s with replies := s.replies ++ [r] } { s' with replies := s'.replies ++ [r] } := by
  obtain ⟨stack, rfl⟩ := h.exists_stack
  exact ⟨rfl, h.2⟩

theorem hostMove (h : AlikeBelowSp s s') : AlikeBelowSp s.hostMove s'.hostMove := by
  have hpending : s'.pending = s.pending := by rw [h.1]
  cases hs : s.pending with
  | nil => rwa [State.hostMove_nil hs, State.hostMove_nil (hpending.trans hs)]
  | cons c rest =>
    obtain ⟨halike, hreply⟩ := (h.with_pending rest).accept c
    rw [State.hostMove_cons hs (Prod.eta _).symm, State.hostMove_cons (hpending.trans hs) (Prod.eta _).symm, ← hreply]
    exact halike.with_reply _

/-- From alike states the same of the three cases of a step is taken, and it leaves alike states. -/
theorem stepWith (h : AlikeBelowSp s s') (opc : OpcodeMap) :
    NextsRelated AlikeBelowSp (Machine.stepWith opc s) (Machine.stepWith opc s') := by
  have hhost := h.hostMove
  have hexecs := h.exec
  obtain ⟨stack, rfl⟩ := h.exists_stack
  obtain ⟨hp, hstep⟩ | ⟨hp, hr, hstep⟩ | ⟨hp, hr, i, t, hdec, hexec, hstep⟩ := stepWith_cases opc s
  · rw [hstep, stepWith_of_not_executing (s := s.withStack stack) hp]
    exact nextsRelated_next hhost
  · rw [hstep, stepWith_of_not_running (s := s.withStack stack) hp hr]
    exact nextsRelated_next ⟨rfl, h.2⟩
  · obtain ⟨t', hexec', _⟩ := exec_cases i (s.withStack stack)
    rw [hstep, stepWith_of_decode (s := s.withStack stack) hp hr hdec hexec']
    exact nextsRelated_next (hexecs i t t' hexec hexec').afterDispatch

end AlikeBelowSp

/-- Settles O60: a step from alike states leaves alike states. -/
theorem staleStackSlotsUnobservable : Obligations.StaleStackSlotsUnobservable :=
  fun opc _ _ t t' halike hstep hstep' => halike.stepWith opc t t' hstep hstep'

end Sys2Proof.Machine
end

section
namespace Sys2Proof.Machine

/-! ### Panics -/

/-- An instruction that ends in phase PANICKED from another phase raised a panic of its own table row (60 R201, R204):
an ordinary end keeps the phase. -/
theorem exec_panicked {i : Instr} {s t : State} (hs : s.phase ≠ .panicked) (hexec : exec i s = .next t)
    (ht : t.phase = .panicked) : ∃ p : Panic, MayRaise i s p.cause p.info ∧ t = s.takePanic p := by
  have hends := exec_ends i s
  rw [hexec] at hends
  exact hends.of_next.resolve_right fun ho => hs (ho.phase.symm.trans ht)

/-- Settles O44: the panic state is that of the panic raised, and the loop leaves it as it is. -/
theorem panicUndoesInstruction : Obligations.PanicUndoesInstruction := by
  intro s t i hs hexec ht
  obtain ⟨p, _, rfl⟩ := exec_panicked hs hexec ht
  refine ⟨⟨p, rfl⟩, fun opc hinj hp hr hwf hbytes => ?_⟩
  rw [stepWith_of_decode hp hr (decodeWith_fetch_of_readBytes hinj hwf hbytes) hexec,
    State.afterDispatch_of_panicked ht]

/-- Settles O45: the panic raised is one the tables give the instruction, and it is the one latched. -/
theorem panicCausesAndInfo : Obligations.PanicCausesAndInfo := by
  refine ⟨fun s t i hs hexec ht => ?_, rfl⟩
  obtain ⟨p, ⟨hcause, hinfo⟩, rfl⟩ := exec_panicked hs hexec ht
  exact ⟨p, rfl, hcause, hinfo⟩

/-- Settles O46: in phase PANICKED the host's move is a DUMP, which changes nothing, or a RUN, which is refused, or
none. -/
theorem panicIsSticky : Obligations.PanicIsSticky := by
  intro opc s t hp hstep hqueue
  rw [stepWith_of_not_executing (by simp [hp])] at hstep
  cases hstep
  cases hpending : s.pending with
  | nil => rw [State.hostMove_nil hpending]
  | cons c rest =>
    rw [State.hostMove_cons hpending (Prod.eta _).symm]
    obtain rfl | ⟨cap, rfl⟩ := hqueue c rest hpending
    · rw [State.accept_dump_fst]
    · rw [State.accept_run_of_not_ready (by simp [hp])]

/-! ### The stack frame -/

/-- What instruction `i` does to the stack on its way from `s` to `t`: nothing; or, for STACK_PUSH and STACK_CALL, one
slot more, alone written; or, for STACK_POP and STACK_RET, one slot fewer, none written (10 R19, R20). -/
def StackMoved (i : Instr) (s t : State) : Prop :=
  (t.sp = s.sp ∧ t.stack = s.stack) ∨
  (((∃ b, i = .stackPush b) ∨ ∃ target, i = .stackCall target) ∧ t.sp.val = s.sp.val + 1 ∧
    ∀ (k : Nat) (h : k < 1024), k ≠ s.sp.val → t.stack[k] = s.stack[k]) ∨
  (((∃ b, i = .stackPop b) ∨ i = .stackRet) ∧ t.sp.val + 1 = s.sp.val ∧ t.stack = s.stack)

section
variable {i : Instr} {s t : State}

theorem StackMoved.of_pushed (hi : (∃ b, i = .stackPush b) ∨ ∃ target, i = .stackCall target) {v : Number}
    (h : s.sp.val < Config.stackSlots) (hsp : t.sp = (s.pushed v h).sp) (hstack : t.stack = (s.pushed v h).stack) :
    StackMoved i s t := by
  refine .inr (.inl ⟨hi, by rw [hsp, State.pushed_sp], fun k hk hne => ?_⟩)
  simp only [hstack, State.pushed_stack]
  exact Vector.getElem_set_ne _ _ hne.symm

theorem StackMoved.of_popped (hi : (∃ b, i = .stackPop b) ∨ i = .stackRet) (hpos : s.sp.val ≠ 0)
    (hsp : t.sp = s.popped.sp) (hstack : t.stack = s.stack) : StackMoved i s t :=
  .inr (.inr ⟨hi, by rw [hsp, State.popped_sp]; exact Nat.succ_pred hpos, hstack⟩)

end

/-- The four stack instructions push or pop; every other instruction writes neither `sp` nor a slot. -/
theorem exec_ends_stackMoved (i : Instr) (s : State) : Ends i (StackMoved i s) s (exec i s) := by
  cases i with
  | stackPush r1 => exact (execStackPush_ends r1 s).mono (by
      rintro _ ⟨_, h, rfl⟩; exact .of_pushed (.inl ⟨_, rfl⟩) h rfl rfl)
  | stackCall imm => exact (execStackCall_ends imm s).mono (by
      rintro _ ⟨h, rfl⟩; exact .of_pushed (.inr ⟨_, rfl⟩) h rfl rfl)
  | stackPop r1 => exact (execStackPop_ends r1 s).mono (by
      rintro _ ⟨hpos, _, _, rfl⟩; exact .of_popped (.inl ⟨_, rfl⟩) hpos rfl rfl)
  | stackRet => exact (execStackRet_ends s).mono (by rintro _ ⟨hpos, rfl⟩; exact .of_popped (.inr rfl) hpos rfl rfl)
  | exit => exact (execExit_ends s).mono (by rintro _ rfl; exact .inl ⟨rfl, rfl⟩)
  | nop => exact (execNop_ends s).mono (by rintro _ rfl; exact .inl ⟨rfl, rfl⟩)
  | intStore r1 imm => exact (execIntStore_ends r1 imm s).mono (by rintro _ ⟨_, _, rfl⟩; exact .inl ⟨rfl, rfl⟩)
  | intPrint r1 => exact (execIntPrint_ends r1 s).mono (by rintro _ ⟨_, rfl⟩; exact .inl ⟨rfl, rfl⟩)
  | intTostring r1 => exact (execIntTostring_ends r1 s).mono (by rintro _ ⟨_, _, _, rfl⟩; exact .inl ⟨rfl, rfl⟩)
  | intRandom r1 => exact (execIntRandom_ends r1 s).mono (by rintro _ ⟨_, _, rfl⟩; exact .inl ⟨rfl, rfl⟩)
  | jumpTo imm => exact (execJumpTo_ends imm s).mono (by rintro _ rfl; exact .inl ⟨rfl, rfl⟩)
  | jumpZ imm => exact (execJumpZ_ends imm s).mono (by rintro _ (rfl | rfl) <;> exact .inl ⟨rfl, rfl⟩)
  | jumpNz imm => exact (execJumpNz_ends imm s).mono (by rintro _ (rfl | rfl) <;> exact .inl ⟨rfl, rfl⟩)
  | mathXor r1 r2 r3 | mathAdd r1 r2 r3 | mathSub r1 r2 r3 | mathMul r1 r2 r3 | mathAnd r1 r2 r3
  | mathOr r1 r2 r3 | mathLft r1 r2 r3 | mathRgt r1 r2 r3 =>
    exact (threeRegister_ends _ r1 r2 r3 s).mono (by rintro _ ⟨_, _, _, rfl⟩; exact .inl ⟨rfl, rfl⟩)
  | mathDiv r1 r2 r3 => exact (execMathDiv_ends r1 r2 r3 s).mono (by
      rintro _ ⟨_, _, _, rfl⟩; exact .inl ⟨rfl, rfl⟩)
  | mathInc r1 | mathDec r1 => exact (oneRegister_ends _ r1 s).mono (by
      rintro _ ⟨_, _, _, rfl⟩; exact .inl ⟨rfl, rfl⟩)
  | stringStore r1 lit => exact (execStringStore_ends r1 lit s).mono (by
      rintro _ ⟨_, _, rfl⟩; exact .inl ⟨rfl, rfl⟩)
  | stringPrint r1 => exact (execStringPrint_ends r1 s).mono (by rintro _ ⟨_, rfl⟩; exact .inl ⟨rfl, rfl⟩)
  | stringConcat r1 r2 r3 => exact (execStringConcat_ends r1 r2 r3 s).mono (by
      rintro _ ⟨_, _, _, rfl⟩; exact .inl ⟨rfl, rfl⟩)
  | stringSystem r1 => exact (execStringSystem_ends r1 s).mono (by
      rintro _ ⟨_, ⟨_, rfl⟩ | ⟨_, rfl⟩⟩ <;> exact .inl ⟨rfl, rfl⟩)
  | stringToint r1 => exact (execStringToint_ends r1 s).mono (by rintro _ ⟨_, _, _, rfl⟩; exact .inl ⟨rfl, rfl⟩)
  | cmpReg r1 r2 => exact (execCmpReg_ends r1 r2 s).mono (by rintro _ ⟨_, rfl⟩; exact .inl ⟨rfl, rfl⟩)
  | cmpImmediate r1 imm => exact (execCmpImmediate_ends r1 imm s).mono (by rintro _ ⟨_, rfl⟩; exact .inl ⟨rfl, rfl⟩)
  | cmpString r1 lit => exact (execCmpString_ends r1 lit s).mono (by rintro _ ⟨_, rfl⟩; exact .inl ⟨rfl, rfl⟩)
  | isString r1 => exact (execIsString_ends r1 s).mono (by rintro _ ⟨_, rfl⟩; exact .inl ⟨rfl, rfl⟩)
  | isNumber r1 => exact (execIsNumber_ends r1 s).mono (by rintro _ ⟨_, rfl⟩; exact .inl ⟨rfl, rfl⟩)
  | storeReg r1 r2 => exact (execStoreReg_ends r1 r2 s).mono (by rintro _ ⟨_, _, _, rfl⟩; exact .inl ⟨rfl, rfl⟩)
  | peek r1 r2 => exact (execPeek_ends r1 r2 s).mono (by rintro _ ⟨_, _, _, rfl⟩; exact .inl ⟨rfl, rfl⟩)
  | poke r1 r2 => exact (execPoke_ends r1 r2 s).mono (by
      rintro _ ⟨_, _, _, _, _, _, _, rfl⟩; exact .inl ⟨rfl, rfl⟩)
  | memcpy r1 r2 r3 => exact (execMemcpy_ends r1 r2 r3 s).mono (by
      rintro _ ⟨_, _, _, _, _, _, _, _, _, _, rfl⟩; exact .inl ⟨rfl, rfl⟩)
  | unknown b => exact (execUnknown_ends b s).mono (by rintro _ rfl; exact .inl ⟨rfl, rfl⟩)

/-- Settles O49: a panic leaves the stack alone (60 R204), and an instruction that runs to its end moves it by its
own slot only. -/
theorem onlyStackInstructionsMoveSp : Obligations.OnlyStackInstructionsMoveSp := by
  intro s t i hexec
  have hends := exec_ends_stackMoved i s
  rw [hexec] at hends
  obtain ⟨p, _, rfl⟩ | hmoved := hends.of_next
  · exact .inl ⟨s.takePanic_sp p, s.takePanic_stack p⟩
  · exact hmoved

/-! ### The default opcode map -/

/-- Settles O1: the map is a table, read off; the fallback is every unassigned byte, and those are counted. -/
theorem defaultOpcodeMapAndFallback : Obligations.DefaultOpcodeMapAndFallback :=
  ⟨rfl, rfl, rfl, rfl, rfl, rfl, rfl, opc_injective,
    fun _ _ hb rest => decodeWith_unassigned (unassigned_of_forall_ne hb) rest, by decide +kernel⟩

/-- Settles O2: the decoder is run on each word. -/
theorem sampleWordsDecode : Obligations.SampleWordsDecode :=
  ⟨rfl, rfl, rfl, rfl, rfl, rfl, rfl, rfl, rfl, rfl, rfl⟩

/-! ### Reset -/

/-- Settles O53: every field of the reset state, and that CREATE lists no zero byte. -/
theorem resetValues : Obligations.ResetValues :=
  ⟨State.reset_reg, rfl, rfl, rfl, fun _ hk => Vector.getElem_replicate hk, fun _ => rfl, rfl, rfl, rfl, rfl,
    rfl, rfl, rfl, rfl, rfl, rfl, rfl⟩

end Sys2Proof.Machine
end

section
namespace Sys2Proof.Machine

/-! ### An instruction of three register bytes -/

section
variable {mk : Byte → Byte → Byte → Instr} {k : State → Reg → Reg → Reg → Result}
  (hexec : ∀ b1 b2 b3 s, exec (mk b1 b2 b3) s =
    withReg b1 s fun r1 => withReg b2 s fun r2 => withReg b3 s fun r3 => k s r1 r2 r3)
include hexec

/-- Three register bytes are checked in encoding order (30 R66). -/
theorem raises_of_badByte_three :
    (∀ s b1 b2 b3, BadByte b1 → Raises (mk b1 b2 b3) s .badRegister b1.toNat) ∧
    (∀ s (r1 : Reg) b2 b3, BadByte b2 → Raises (mk (regByte r1) b2 b3) s .badRegister b2.toNat) ∧
    (∀ s (r1 r2 : Reg) b3, BadByte b3 → Raises (mk (regByte r1) (regByte r2) b3) s .badRegister b3.toNat) := by
  refine ⟨fun s b1 b2 b3 => raises_of_badByte (hexec b1 b2 b3 s), fun s r1 b2 b3 h => ?_, fun s r1 r2 b3 h => ?_⟩
  · rw [raises_iff, hexec, withReg_regByte, withReg_of_bad h]
  · rw [raises_iff, hexec, withReg_regByte, withReg_regByte, withReg_of_bad h]

/-- With all three legal, the instruction goes on with the registers they name. -/
theorem exec_regByte_three (s : State) (r1 r2 r3 : Reg) :
    exec (mk (regByte r1) (regByte r2) (regByte r3)) s = k s r1 r2 r3 := by
  rw [hexec, withReg_regByte, withReg_regByte, withReg_regByte]

end

/-! ### The shapes of the MATH instructions -/

/-- Z after a MATH instruction is set iff the Number stored is 0 (43 R121). -/
theorem storeResult_eq (d : Reg) (r : Number) (n : Nat) (s : State) : storeResult d r n s = .next
    { s with regs := s.regs.set d (.number r), z := decide (r.toInt = 0), ip := s.ip + BitVec.ofNat 16 n } := by
  rw [storeResult, zeroFlag_eq]
  rfl

/-- Two typed reads that find Numbers go on with them (43 R120). -/
theorem threeOperands_of_numbers {s : State} {d s1 s2 : Reg} {a b : Number} (ha : s.regs[s1] = .number a)
    (hb : s.regs[s2] = .number b) (k : Reg → Reg → Number → Number → Result) :
    threeOperands (regByte d) (regByte s1) (regByte s2) s k = k d s2 a b := by
  rw [threeOperands, withReg_regByte, withReg_regByte, withReg_regByte, withNum_number ha, withNum_number hb]

section
variable {m : Mnemonic} {byte : Byte}

/-- The three-register shape of an instruction that reads its operands and, unless they stop it, stores a result. -/
theorem threeRegisterRule_of_threeOperands {mk : Byte → Byte → Byte → Instr} {stops : Number → Number → Prop}
    {result : Number → Number → Number → Prop} {k : State → Reg → Reg → Number → Number → Result}
    (hdec : ∀ b1 b2 b3, DecodesAs m byte [b1, b2, b3] (mk b1 b2 b3))
    (hexec : ∀ b1 b2 b3 s, exec (mk b1 b2 b3) s = threeOperands b1 b2 b3 s (k s))
    (hk : ∀ s d s2 a b, ¬ stops a b → ∃ r, result a b r ∧ k s d s2 a b = storeResult d r 4 s) :
    ThreeRegisterRule m byte mk stops result := by
  obtain ⟨hbad1, hbad2, hbad3⟩ := raises_of_badByte_three hexec
  have hreg := exec_regByte_three hexec
  refine ⟨hdec, hbad1, hbad2, hbad3, fun s d s1 s2 t ht => ?_, fun s d s1 s2 a t ha ht => ?_,
    fun s d s1 s2 a b ha hb hgo => ?_⟩
  · rw [raises_iff, hreg, withNum_string ht]
  · rw [raises_iff, hreg, withNum_number ha, withNum_string ht]
  · obtain ⟨r, hr, hstore⟩ := hk s d s2 a b hgo
    refine ⟨r, hr, ?_⟩
    rw [Completes, hexec, threeOperands_of_numbers ha hb, hstore, storeResult_eq]
    rfl

/-- The three-register shape of an instruction that stores a function of its operands. -/
theorem threeRegisterRule_of_threeRegister {mk : Byte → Byte → Byte → Instr} {f : Number → Number → Number}
    {result : Number → Number → Number → Prop} (hdec : ∀ b1 b2 b3, DecodesAs m byte [b1, b2, b3] (mk b1 b2 b3))
    (hexec : ∀ b1 b2 b3 s, exec (mk b1 b2 b3) s = threeRegister f b1 b2 b3 s) (hf : ∀ a b, result a b (f a b)) :
    ThreeRegisterRule m byte mk (fun _ _ => False) result :=
  threeRegisterRule_of_threeOperands hdec hexec fun _ _ _ a b _ => ⟨f a b, hf a b, rfl⟩

/-- The one-register shape, of INC and DEC. -/
theorem oneRegisterRule_of_oneRegister {mk : Byte → Instr} {f : Number → Number} {result : Number → Number → Prop}
    (hdec : ∀ b, DecodesAs m byte [b] (mk b)) (hexec : ∀ b s, exec (mk b) s = oneRegister f b s)
    (hf : ∀ n, result n (f n)) : OneRegisterRule m byte mk result := by
  refine ⟨hdec, fun s b => raises_of_badByte (hexec b s), fun s i t => raises_of_string (hexec _ s) rfl,
    fun s i n hn => ⟨f n, hf n, ?_⟩⟩
  rw [Completes, exec_of_number (hexec _ s) rfl hn, storeResult_eq]
  rfl

end

/-! ### ADD, SUB, MUL -/

theorem wrapsTo_wrapW (v : Int) : WrapsTo v (wrapW v) := wrapW_congruent v

/-- Settles O17: each stores the wrapped exact result, in the three-register shape. -/
theorem addSubMulWrap : Obligations.AddSubMulWrap := by
  refine ⟨?_, ?_, ?_⟩ <;>
    exact threeRegisterRule_of_threeRegister (fun _ _ _ => decodesAs_of_decodeOperands rfl fun _ => rfl)
      (fun _ _ _ _ => rfl) fun _ _ => wrapsTo_wrapW _

/-! ### XOR, AND, OR -/

/-- Settles O19: bit `k` of each result is the operation on bits `k`, in the three-register shape. -/
theorem bitwiseActsOnPatterns : Obligations.BitwiseActsOnPatterns := by
  refine ⟨threeRegisterRule_of_threeRegister (fun _ _ _ => decodesAs_of_decodeOperands rfl fun _ => rfl)
      (fun _ _ _ _ => rfl) fun _ _ _ => BitVec.getLsbD_xor,
    threeRegisterRule_of_threeRegister (fun _ _ _ => decodesAs_of_decodeOperands rfl fun _ => rfl)
      (fun _ _ _ _ => rfl) fun _ _ _ => BitVec.getLsbD_and,
    threeRegisterRule_of_threeRegister (fun _ _ _ => decodesAs_of_decodeOperands rfl fun _ => rfl)
      (fun _ _ _ _ => rfl) fun _ _ _ => BitVec.getLsbD_or⟩

/-! ### DIV -/

/-- A quotient rounded toward zero, when it is not 0, is positive iff the signs agree (43 R122). -/
theorem tdiv_nonneg_iff {a b : Int} (h : a.tdiv b ≠ 0) : 0 ≤ a.tdiv b ↔ (0 ≤ a ↔ 0 ≤ b) := by
  obtain ha | ha := Int.lt_or_le a 0 <;> obtain hb | hb := Int.lt_or_le b 0
  · have hq := Int.tdiv_nonneg_of_nonpos_of_nonpos (Int.le_of_lt ha) (Int.le_of_lt hb)
    omega
  · have hq := Int.tdiv_nonneg (a := -a) (by omega) hb
    rw [Int.neg_tdiv] at hq
    omega
  · have hq := Int.tdiv_nonpos_of_nonneg_of_nonpos ha (Int.le_of_lt hb)
    omega
  · have hq := Int.tdiv_nonneg ha hb
    omega

theorem exec_mathDiv (b1 b2 b3 : Byte) (s : State) : exec (.mathDiv b1 b2 b3) s =
    threeOperands b1 b2 b3 s fun d s2 a b =>
      if b = 0 then raise s .divZero s2.val else storeResult d (sdivW a b) 4 s := rfl

/-- Settles O18: a divisor that is not 0 gives the quotient rounded toward zero, wrapped; 0 panics after the reads. -/
theorem divTruncatesOrPanics : Obligations.DivTruncatesOrPanics := by
  constructor
  · refine threeRegisterRule_of_threeOperands (fun _ _ _ => decodesAs_of_decodeOperands rfl fun _ => rfl)
      exec_mathDiv fun s d s2 a b hb => ⟨sdivW a b, ?_, if_neg hb⟩
    exact ⟨a.toInt.tdiv b.toInt, wrapsTo_wrapW _, Int.natAbs_tdiv _ _, tdiv_nonneg_iff⟩
  · intro s d s1 s2 a ha hzero
    rw [raises_iff, exec_mathDiv, threeOperands_of_numbers ha hzero]
    rfl

/-! ### LFT, RGT -/

/-- The floor of a quotient by a positive number stays in the range of a Number, so RGT wraps nothing (43 R124). -/
theorem sarW_toInt (a b : Number) : (sarW a b).toInt = a.toInt / 2 ^ (b.toNat % 32) := by
  have hpos : (0 : Int) < 2 ^ (b.toNat % 32) := Int.pow_pos (by decide)
  have hrange := number_range a
  have habs := Int.natAbs_ediv_le_natAbs a.toInt (2 ^ (b.toNat % 32))
  have hneg : a.toInt < 0 → a.toInt / 2 ^ (b.toNat % 32) < 0 := fun h => Int.ediv_neg_of_neg_of_pos h hpos
  rw [sarW, shiftCount, Int.fdiv_eq_ediv_of_nonneg _ (Int.le_of_lt hpos), wrapW_toInt_of_range] <;> omega

/-- Settles O20: LFT wraps the product by the power of two, and RGT is the floor of the quotient, which is in range. -/
theorem shiftsUseLowFiveBits : Obligations.ShiftsUseLowFiveBits := by
  constructor
  · exact threeRegisterRule_of_threeRegister (fun _ _ _ => decodesAs_of_decodeOperands rfl fun _ => rfl)
      (fun _ _ _ _ => rfl) fun _ _ => wrapsTo_wrapW _
  · refine threeRegisterRule_of_threeRegister (fun _ _ _ => decodesAs_of_decodeOperands rfl fun _ => rfl)
      (fun _ _ _ _ => rfl) fun a b => ?_
    have hpos : (0 : Int) < 2 ^ (b.toNat % 32) := Int.pow_pos (by decide)
    rw [sarW_toInt]
    exact ⟨Int.ediv_mul_le _ (Int.ne_of_gt hpos), Int.lt_ediv_add_one_mul_self _ hpos⟩

/-! ### INC, DEC -/

/-- Of the integers in reach of a Number by one step, 0 alone wraps to 0. -/
theorem wrapW_toInt_eq_zero_iff {v : Int} (lo : -2147483649 ≤ v) (hi : v ≤ 2147483648) :
    (wrapW v).toInt = 0 ↔ v = 0 := by
  have hcongruent := wrapW_congruent v
  have hrange := number_range (wrapW v)
  omega

/-- Settles O21: each stores the neighbour of its Number, wrapped, which is 0 from one Number only. -/
theorem incDecWrap : Obligations.IncDecWrap := by
  refine ⟨oneRegisterRule_of_oneRegister (fun _ => decodesAs_of_decodeOperands rfl fun _ => rfl) (fun _ _ => rfl)
      fun n => ⟨wrapsTo_wrapW _, ?_⟩,
    oneRegisterRule_of_oneRegister (fun _ => decodesAs_of_decodeOperands rfl fun _ => rfl) (fun _ _ => rfl)
      fun n => ⟨wrapsTo_wrapW _, ?_⟩⟩ <;>
  · have hrange := number_range n
    rw [wrapW_toInt_eq_zero_iff] <;> omega

end Sys2Proof.Machine
end

section
namespace Sys2Proof.Machine

/-! ### INT_RANDOM -/

theorem exec_intRandom (b : Byte) (s : State) : exec (.intRandom b) s =
    withReg b s fun d => .next ((s.drawn.setReg d (.number (ofHalf s.nextRandom))).advance 2) := rfl

/-- Settles O13: the value delivered, zero-extended, is what the register gets; it is in range as a 16-bit value is. -/
theorem intRandomWritesDrawnValue : Obligations.IntRandomWritesDrawnValue := by
  intro s b
  refine ⟨decodesAs_of_decodeOperands rfl fun _ => rfl, raises_of_badByte (exec_intRandom b s), fun r hr => ?_⟩
  subst hr
  have hvalue : (ofHalf s.nextRandom).toInt = (Config.freeRandom s.draws).toNat := ofHalf_toInt _
  have hrange := (Config.freeRandom s.draws).isLt
  refine ⟨ofHalf s.nextRandom, hvalue, by omega, by omega, ?_⟩
  exact (exec_intRandom _ s).trans (withReg_regByte r s _)

/-! ### STRING_PRINT, STRING_SYSTEM -/

theorem exec_stringPrint (b : Byte) (s : State) : exec (.stringPrint b) s =
    withReg b s fun r => withStr r s fun t => .next ((s.emitOut (.str t)).advance 2) := rfl

theorem exec_stringSystem (b : Byte) (s : State) : exec (.stringSystem b) s =
    withReg b s fun r => withStr r s fun t =>
    .next ((if s.fuzzSafe then s.emitDiag (.systemSkipped t) else s.emitHost (.system t)).advance 2) := rfl

/-- Settles O23: a String read of the register, then one record on OUT, whose text is the String's. -/
theorem stringPrintEmitsString : Obligations.StringPrintEmitsString := by
  intro s b
  have hexec := exec_stringPrint b s
  exact ⟨decodesAs_of_decodeOperands rfl fun _ => rfl, raises_of_badByte hexec,
    fun _ _ => raises_of_number hexec,
    fun _ t hr ht => ⟨exec_of_string hexec hr ht, renderOut_singleton (.str t)⟩⟩

/-- Settles O25: a String read of the register, then one record, on the channel `fuzz_safe` chooses. -/
theorem stringSystemReports : Obligations.StringSystemReports := by
  intro s b
  have hexec := exec_stringSystem b s
  refine ⟨decodesAs_of_decodeOperands rfl fun _ => rfl, raises_of_badByte hexec,
    fun _ _ => raises_of_number hexec, fun r t hr ht hsafe => ?_, fun r t hr ht hsafe => ?_⟩
  · rw [Completes, exec_of_string hexec hr ht, if_neg (by simp [hsafe])]
    rfl
  · rw [Completes, exec_of_string hexec hr ht, if_pos hsafe]
    rfl

/-! ### STRING_CONCAT -/

theorem exec_stringConcat (b1 b2 b3 : Byte) (s : State) : exec (.stringConcat b1 b2 b3) s =
    withReg b1 s fun d => withReg b2 s fun s1 => withReg b3 s fun s2 =>
    withStr s1 s fun a => withStr s2 s fun b => .next ((s.setReg d (.string (a ++ b))).advance 4) := rfl

/-- Settles O24: the three register checks, the two String reads in order, and the join of what they read. -/
theorem concatJoinsSources : Obligations.ConcatJoinsSources := by
  obtain ⟨hbad1, hbad2, hbad3⟩ := raises_of_badByte_three exec_stringConcat
  have hreg := exec_regByte_three exec_stringConcat
  refine ⟨fun _ _ _ => decodesAs_of_decodeOperands rfl fun _ => rfl, hbad1, hbad2, hbad3,
    fun s d s1 s2 n hn => ?_, fun s d s1 s2 a n ha hn => ?_, fun s d s1 s2 a b ha hb => ?_⟩
  · rw [raises_iff, hreg, withStr_number hn]
  · rw [raises_iff, hreg, withStr_string ha, withStr_number hn]
  · rw [Completes, hreg, withStr_string ha, withStr_string hb]
    rfl

/-! ### CMP_IMMEDIATE, CMP_STRING -/

theorem exec_cmpImmediate (b : Byte) (imm : Half) (s : State) : exec (.cmpImmediate b imm) s =
    withReg b s fun r => withNum r s fun n => .next ((s.setZ (decide (n = ofHalf imm))).advance 4) := rfl

theorem exec_cmpString (b : Byte) (lit : Str) (s : State) : exec (.cmpString b lit) s =
    withReg b s fun r => withStr r s fun t => .next ((s.setZ (decide (t = lit))).advance (4 + lit.length)) := rfl

/-- A Number is the immediate, zero-extended, iff its value is `lo + 256*hi` (45 R151). -/
theorem eq_ofHalf_imm16_iff (n : Number) (lo hi : Byte) :
    n = ofHalf (imm16 lo hi) ↔ n.toInt = lo.toNat + 256 * hi.toNat := by
  rw [← BitVec.toInt_inj, ofHalf_imm16_toInt]

/-- Settles O28: a read of the register in the variant compared, and Z the equality with the operand decoded. -/
theorem cmpImmediateAndStringCompareOperand : Obligations.CmpImmediateAndStringCompareOperand := by
  refine ⟨fun s b lo hi => ?_, fun s b lo hi lit hlen => ?_⟩
  · have hexec := exec_cmpImmediate b (imm16 lo hi) s
    refine ⟨imm16 lo hi, imm16_toNat lo hi, decodesAs_of_decodeOperands rfl fun _ => rfl, raises_of_badByte hexec,
      fun _ _ => raises_of_string hexec, fun r n hr hn => ?_⟩
    rw [Completes, exec_of_number hexec hr hn, decide_eq_decide.mpr (eq_ofHalf_imm16_iff n lo hi)]
    rfl
  · have hexec := exec_cmpString b lit s
    exact ⟨decodesAs_of_decodeOperands rfl fun rest => takeRS_literal .cmpString .cmpString b lo hi lit rest hlen,
      raises_of_badByte hexec, fun _ _ => raises_of_number hexec, fun _ _ => exec_of_string hexec⟩

end Sys2Proof.Machine
end

section
namespace Sys2Proof.Machine

/-! ### An instruction of two register bytes -/

section
variable {mk : Byte → Byte → Instr} {k : State → Reg → Reg → Result}
  (hexec : ∀ b1 b2 s, exec (mk b1 b2) s = withReg b1 s fun r1 => withReg b2 s fun r2 => k s r1 r2)
include hexec

/-- Two register bytes are checked in encoding order (30 R66). -/
theorem raises_of_badByte_two :
    (∀ s b1 b2, BadByte b1 → Raises (mk b1 b2) s .badRegister b1.toNat) ∧
    (∀ s (r1 : Reg) b2, BadByte b2 → Raises (mk (regByte r1) b2) s .badRegister b2.toNat) := by
  refine ⟨fun s b1 b2 => raises_of_badByte (hexec b1 b2 s), fun s r1 b2 h => ?_⟩
  rw [raises_iff, hexec, withReg_regByte, withReg_of_bad h]

/-- With both legal, the instruction goes on with the registers they name. -/
theorem exec_regByte_two (s : State) (r1 r2 : Reg) : exec (mk (regByte r1) (regByte r2)) s = k s r1 r2 := by
  rw [hexec, withReg_regByte, withReg_regByte]

end

/-! ### PEEK and POKE -/

/-- Settles O32: the two register checks, the numeric read, the address test, and the load of an address in range. -/
theorem peekLoadsByte : Obligations.PeekLoadsByte := by
  obtain ⟨hbad1, hbad2⟩ := raises_of_badByte_two exec_peek
  have hreg := exec_regByte_two exec_peek
  refine ⟨fun _ _ => decodesAs_of_decodeOperands rfl fun _ => rfl, hbad1, hbad2, fun s d ar t ht => ?_,
    fun s d ar a ha hout => ?_, fun s d ar a addr ha haddr => ⟨_, ofByte_toInt _, peek_completes d ha haddr⟩⟩
  · rw [raises_iff, hreg, withNum_string ht]
  · rw [raises_iff, hreg, withNum_number ha, withAddress_of_outside hout]

/-- Settles O33: the two register checks, the two numeric reads in order, the address test, and the store of an address
in range. -/
theorem pokeStoresLowByte : Obligations.PokeStoresLowByte := by
  obtain ⟨hbad1, hbad2⟩ := raises_of_badByte_two exec_poke
  have hreg := exec_regByte_two exec_poke
  refine ⟨fun _ _ => decodesAs_of_decodeOperands rfl fun _ => rfl, hbad1, hbad2, fun s vr ar t ht => ?_,
    fun s vr ar v t hv ht => ?_, fun s vr ar v a hv ha hout => ?_,
    fun s vr ar v a addr hv ha haddr => ⟨_, lowByteOf_toNat v, poke_completes hv ha haddr⟩⟩
  · rw [raises_iff, hreg, withNum_string ht]
  · rw [raises_iff, hreg, withNum_number hv, withNum_string ht]
  · rw [raises_iff, hreg, withNum_number hv, withNum_number ha, withAddress_of_outside hout]

/-- A Number in range names an address (20 R40). -/
theorem exists_addr_of_range {a : Number} (lo : 0 ≤ a.toInt) (hi : a.toInt ≤ 65535) :
    ∃ addr : Addr, a.toInt = addr.toNat := by
  refine ⟨BitVec.ofNat 16 a.toInt.toNat, ?_⟩
  rw [BitVec.toNat_ofNat]
  omega

/-- Settles O37: the POKE stores the low byte, which the PEEK of the same address reads back. -/
theorem pokePeekRoundTrip : Obligations.PokePeekRoundTrip := by
  rintro s t vr ar d ar' v a a' hwf hv ha lo hi ⟨u, hpoke, hmem⟩ ha' hsame
  obtain ⟨addr, haddr⟩ := exists_addr_of_range lo hi
  have hpeek := peek_completes d ha' (hsame.trans haddr)
  cases hpoke.symm.trans (poke_completes hv ha haddr)
  refine ⟨_, ofByte (t.mem.read addr), hpeek, by simp, ?_⟩
  rw [ofByte_toInt, hmem, Memory.read_write_same hwf, lowByteOf_toNat]

/-! ### MEMCPY -/

/-- The copy loop on natural indices is the fold of the statement, on integer indices (47 R167). -/
theorem Memory.copy_eq_foldl_int {src dst : Int} (hsrc : 0 ≤ src) (hdst : 0 ≤ dst) (n : Nat) (m : Memory) :
    Memory.copy Config.copyWrap n src.toNat dst.toNat m = (List.range n).foldl (fun m (k : Nat) =>
      m.write (BitVec.ofInt 16 ((dst + k) % 65535)) (m.read (BitVec.ofInt 16 ((src + k) % 65535)))) m := by
  have hindex : ∀ {d : Int}, 0 ≤ d → ∀ k : Nat,
      (BitVec.ofNat 16 ((d.toNat + k) % Config.copyWrap) : Addr) = BitVec.ofInt 16 ((d + k) % 65535) := by
    intro d hd k
    rw [← copyIndex_toNat hd k, BitVec.ofInt_natCast, BitVec.ofNat_toNat, BitVec.setWidth_eq]
  simp only [Memory.copy_eq_foldl, hindex hsrc, hindex hdst]

/-- Settles O34: the three register checks, the three numeric reads and the two sign tests in their order, and then the
copy loop, as a fold. -/
theorem memcpyCopiesAscending : Obligations.MemcpyCopiesAscending := by
  obtain ⟨hbad1, hbad2, hbad3⟩ := raises_of_badByte_three exec_memcpy
  have hreg := exec_regByte_three exec_memcpy
  refine ⟨fun _ _ _ => decodesAs_of_decodeOperands rfl fun _ => rfl, hbad1, hbad2, hbad3, fun s dr sr lr => ?_⟩
  refine ⟨fun t ht => ?_, fun sv t hsv ht => ?_, fun sv dv t hsv hdv ht => ?_, fun sv dv n hsv hdv hn => ?_⟩
  · rw [raises_iff, hreg, withNum_string ht]
  · rw [raises_iff, hreg, withNum_number hsv, withNum_string ht]
  · rw [raises_iff, hreg, withNum_number hsv, withNum_number hdv, withNum_string ht]
  · have hread := (hreg s dr sr lr).trans (by rw [withNum_number hsv, withNum_number hdv, withNum_number hn])
    refine ⟨fun hneg => ?_, fun hpos hneg => ?_, fun hsrc hdst => ?_⟩
    · rw [raises_iff, hread, withCopyAddress_of_neg hneg]
    · rw [raises_iff, hread, withCopyAddress_of_nonneg hpos, withCopyAddress_of_neg hneg]
    · rw [Completes, hread, withCopyAddress_of_nonneg hsrc, withCopyAddress_of_nonneg hdst,
        Memory.copy_eq_foldl_int hsrc hdst]
      rfl

end Sys2Proof.Machine
end

section
namespace Sys2Proof.Machine

/-! ### The copy loop: disjoint and overlapping -/

/-- Two copy indices name one byte only if they are equal (47 R167). -/
theorem copyIndex_inj {a b : Nat} (h : (BitVec.ofNat 16 (a % 65535) : Addr) = BitVec.ofNat 16 (b % 65535)) :
    a % 65535 = b % 65535 := by
  have htoNat := congrArg BitVec.toNat h
  simp only [BitVec.toNat_ofNat] at htoNat
  omega

/-- The first byte a copy of at most the whole ring stores is not stored to again. -/
theorem Memory.copy_read_first {m : Memory} (hwf : m.wf = true) {n : Nat} (s d : Nat) (hn : n + 1 ≤ 65535) :
    (Memory.copy 65535 (n + 1) s d m).read (BitVec.ofNat 16 (d % 65535)) =
      m.read (BitVec.ofNat 16 (s % 65535)) := by
  rw [Memory.copy, Memory.copy_read_other, Memory.read_write_same hwf]
  intro i hi h
  have := copyIndex_inj h
  omega

/-- A copy whose destination holds no source byte stores the old source bytes (47 R167, decision D20). -/
theorem Memory.copy_read_of_disjoint : ∀ (n s d : Nat) {m : Memory}, m.wf = true → n ≤ 65535 →
    (∀ i j, i < n → j < n → (s + i) % 65535 ≠ (d + j) % 65535) → ∀ i, i < n →
    (Memory.copy 65535 n s d m).read (BitVec.ofNat 16 ((d + i) % 65535)) =
      m.read (BitVec.ofNat 16 ((s + i) % 65535))
  | n + 1, s, d, m, hwf, hn, _, 0, _ => Memory.copy_read_first hwf s d hn
  | n + 1, s, d, m, hwf, hn, hdisj, i + 1, hi => by
    have hrest : ∀ i j, i < n → j < n → (s + 1 + i) % 65535 ≠ (d + 1 + j) % 65535 := fun i j hi hj => by
      have := hdisj (i + 1) (j + 1) (by omega) (by omega)
      rwa [← Nat.add_assoc, ← Nat.add_assoc, Nat.add_right_comm s, Nat.add_right_comm d] at this
    have hsource : (BitVec.ofNat 16 (d % 65535) : Addr) ≠ BitVec.ofNat 16 ((s + 1 + i) % 65535) := fun h =>
      hdisj (i + 1) 0 hi (by omega) (by rw [← Nat.add_assoc, Nat.add_right_comm]; exact (copyIndex_inj h).symm)
    rw [Memory.copy, ← Nat.add_assoc, ← Nat.add_assoc, Nat.add_right_comm d, Nat.add_right_comm s,
      Memory.copy_read_of_disjoint n (s + 1) (d + 1) (m.write_wf hwf _ _) (by omega) hrest i (by omega),
      Memory.read_write_ne _ hsource]

/-- A copy one byte up, without a wrap, repeats its first byte (47 R167, decision D20). -/
theorem Memory.copy_read_of_one_up : ∀ (n s : Nat) {m : Memory}, m.wf = true → s + n < 65535 → ∀ i, i < n →
    (Memory.copy 65535 n s (s + 1) m).read (BitVec.ofNat 16 (s + 1 + i)) = m.read (BitVec.ofNat 16 s)
  | n + 1, s, m, hwf, hn, 0, _ => by
    have hfirst := Memory.copy_read_first hwf (n := n) s (s + 1) (by omega)
    rwa [Nat.mod_eq_of_lt (by omega), Nat.mod_eq_of_lt (by omega)] at hfirst
  | n + 1, s, m, hwf, hn, i + 1, hi => by
    rw [Memory.copy, ← Nat.add_assoc, Nat.add_right_comm (s + 1),
      Memory.copy_read_of_one_up n (s + 1) (m.write_wf hwf _ _) (by omega) i (by omega),
      Nat.mod_eq_of_lt (by omega), Nat.mod_eq_of_lt (by omega), Memory.read_write_same hwf]

/-- Settles O35: by induction on the length; each byte stored is not stored to again, and a source byte beyond the first
is the old one when disjoint, and the one just stored when one below. -/
theorem memcpyDisjointCopiesOverlapRepeats : Obligations.MemcpyDisjointCopiesOverlapRepeats := by
  intro m s d n hwf
  refine ⟨fun hn hdisj => ⟨Memory.copy_read_of_disjoint n s d hwf hn hdisj, fun c hc => ?_⟩, ?_⟩
  · refine Memory.copy_read_other 65535 c n s d m fun i hi h => hc i hi ?_
    rw [← h, BitVec.toNat_ofNat]
    omega
  · rintro rfl hn
    exact Memory.copy_read_of_one_up n s hwf hn

end Sys2Proof.Machine
end

section
namespace Sys2Proof.Machine

/-! ### STACK_PUSH, STACK_RET, STACK_CALL -/

theorem exec_stackPush (b : Byte) (s : State) : exec (.stackPush b) s =
    withReg b s fun r => withNum r s fun v => withPush v s fun t => .next (t.advance 2) := rfl

theorem exec_stackRet (s : State) : exec .stackRet s =
    withPop s fun v t => .next (t.setIp (returnTarget v)) := rfl

theorem exec_stackCall (target : Half) (s : State) : exec (.stackCall target) s =
    withPush (returnAddress s.ip) s fun t => .next (t.setIp target) := rfl

/-- With a slot free, STACK_PUSH ends with its Number in that slot (48 R175). -/
theorem exec_stackPush_of_room {s : State} {r : Reg} {v : Number} (hv : s.regs[r] = .number v)
    (h : s.sp.val < Config.stackSlots) : exec (.stackPush (regByte r)) s = .next ((s.pushed v h).advance 2) := by
  rw [exec_of_number (exec_stackPush _ s) rfl hv, withPush_of_room h]

/-- With a slot free, STACK_CALL ends at its target with the return address in that slot (48 R181). -/
theorem exec_stackCall_of_room (target : Half) {s : State} (h : s.sp.val < Config.stackSlots) :
    exec (.stackCall target) s = .next ((s.pushed (returnAddress s.ip) h).setIp target) := by
  rw [exec_stackCall, withPush_of_room h]

/-- From a stack of `k + 1`, STACK_RET ends where the Number in slot `k` sends it (48 R180). -/
theorem exec_stackRet_of_pos {s : State} {k : Nat} (hk : k < 1024) (hsp : s.sp.val = k + 1) : exec .stackRet s =
    .next { s with sp := ⟨k, Nat.lt_succ_of_lt hk⟩, ip := returnTarget s.stack[k] } := by
  obtain ⟨hpopped, hslot⟩ := State.popped_eq hk hsp
  rw [exec_stackRet, withPop_of_pos (by omega), hpopped, hslot]
  rfl

/-- Settles O38: a numeric read of the register, and then the push, which overflows or fills the next slot. -/
theorem pushStoresNumber : Obligations.PushStoresNumber := by
  intro s b
  have hexec := exec_stackPush b s
  refine ⟨decodesAs_of_decodeOperands rfl fun _ => rfl, raises_of_badByte hexec, fun _ _ => raises_of_string hexec,
    fun r v hr hv hfull => ?_, fun r v hroom hr hv => ?_⟩
  · rw [raises_iff, exec_of_number hexec hr hv, withPush_of_full hfull]
  · subst hr
    exact exec_stackPush_of_room hv hroom

/-- Settles O40: the pop underflows, or the Number popped is an address or outside of them. -/
theorem returnGoesToPoppedAddress : Obligations.ReturnGoesToPoppedAddress := by
  refine ⟨decodesAs_of_decodeOperands rfl fun _ => rfl, fun s hempty => ?_,
    fun s k hk hsp => ⟨fun addr haddr => ?_, fun hout => ?_⟩⟩
  · rw [raises_iff, exec_stackRet, withPop_of_empty hempty]
  · rw [Completes, exec_stackRet_of_pos hk hsp, returnTarget_of_range haddr]
  · rw [Completes, exec_stackRet_of_pos hk hsp, returnTarget_of_outside hout]

/-- Settles O41: the push overflows, or fills the next slot with the return address, which is not reduced. -/
theorem callPushesReturnAddress : Obligations.CallPushesReturnAddress := by
  intro s lo hi
  refine ⟨imm16 lo hi, imm16_toNat lo hi, decodesAs_of_decodeOperands rfl fun _ => rfl, fun hfull => ?_,
    fun hroom => ⟨returnAddress s.ip, returnAddress_toInt s.ip, exec_stackCall_of_room _ hroom⟩⟩
  rw [raises_iff, exec_stackCall, withPush_of_full hfull]

/-! ### Pairs -/

/-- The return address of a call at `ip` sends the return to the byte after the call's three: 65536, which is no
address, stands for 0 (48 R180, R181). -/
theorem returnTarget_returnAddress (ip : Addr) : returnTarget (returnAddress ip) = ip + 3 := by
  have hret := returnAddress_toInt ip
  by_cases htop : (returnAddress ip).toInt = 65536
  · rw [returnTarget_of_outside (by omega)]
    bv_omega
  · refine returnTarget_of_range ?_
    rw [hret, BitVec.toNat_add]
    simp
    omega

/-- Settles O42: the pop finds in the slot of the push its Number, and the return in the slot of the call its return
address, since no slot at or below `sp` has changed. -/
theorem pushPopAndCallReturnMatch : Obligations.PushPopAndCallReturnMatch := by
  refine ⟨fun s t r v hv hroom hpush => ?_, fun s t u target hroom hcall hsp hslots => ?_⟩
  · cases (exec_stackPush_of_room hv hroom).symm.trans hpush
    refine ⟨_, stackPop_completes r hroom rfl, ?_, rfl⟩
    simp [← hv]
  · cases (exec_stackCall_of_room target hroom).symm.trans hcall
    have hspVal : u.sp.val = s.sp.val + 1 := congrArg Fin.val hsp
    have hslot : u.stack[s.sp.val] = returnAddress s.ip := by
      rw [hslots s.sp.val hroom (by omega)]
      simp
    refine ⟨_, exec_stackRet_of_pos hroom hspVal, ?_, rfl, rfl, rfl⟩
    rw [hslot, returnTarget_returnAddress]

end Sys2Proof.Machine
end

section
namespace Sys2Proof.Machine

/-! ### The decimal text of a Number -/

/-- Settles O14: a 32-bit magnitude has at most ten digits, so the digit writer gives all of them, after the sign. -/
theorem decimalTextIsCanonical : Obligations.DecimalTextIsCanonical := by
  intro n
  have hrange := number_range n
  obtain ⟨ds, hds, hall, hvalue, hne, hzero⟩ := decDigits_spec 10 n.toInt.natAbs [] (by omega) (by decide)
  refine ⟨ds, hne, hall, hvalue, ?_, fun h => (hzero h).2⟩
  rw [dec, hds, List.append_nil]
  split <;> rfl

/-! ### What parse_dec reads -/

/-- A byte that is a decimal digit (44 R147). -/
abbrev DigitByte (b : Byte) : Prop := 0x30 ≤ b.toNat ∧ b.toNat ≤ 0x39

theorem isDigitByte_iff (b : Byte) : isDigitByte b = true ↔ DigitByte b := by
  simp [isDigitByte]

/-- How `parse_dec` splits a text: white space, a sign or none, digits, and a rest that begins with no digit, nor, when
there is neither sign nor digit, with anything the reader would have taken (44 R147). -/
structure DecimalSplit (ws sgn ds rest : Str) : Prop where
  spaces : ∀ b ∈ ws, SpaceByte b
  sign : sgn ∈ [[], [0x2D], [0x2B]]
  digits : AllDigits ds
  rest_head : ∀ b, rest.head? = some b → ¬ DigitByte b
  rest_unsigned : sgn = [] → ds = [] → ∀ b, rest.head? = some b → ¬ SpaceByte b ∧ b ≠ 0x2D ∧ b ≠ 0x2B

/-- A digit is neither white space nor a sign. -/
theorem DigitByte.not_space_sign {b : Byte} (h : DigitByte b) : ¬ SpaceByte b ∧ b ≠ 0x2D ∧ b ≠ 0x2B := by
  obtain ⟨lo, hi⟩ := h
  refine ⟨fun hspace => ?_, ?_, ?_⟩
  · simp only [SpaceByte, List.mem_cons, List.not_mem_nil, or_false] at hspace
    rcases hspace with rfl | rfl | rfl | rfl | rfl | rfl <;> simp at lo hi
  · rintro rfl
    simp at lo hi
  · rintro rfl
    simp at lo hi

/-! Every text splits: its white space, its sign and its digits are taken off its front in turn. -/

/-- What a test takes off the front of a text, and a rest that begins with nothing it would have taken. -/
theorem exists_append_of_test (p : Byte → Bool) (t : Str) : ∃ taken rest : Str, t = taken ++ rest ∧
    (∀ b ∈ taken, p b = true) ∧ ∀ b, rest.head? = some b → p b = false := by
  refine ⟨t.takeWhile p, t.dropWhile p, List.takeWhile_append_dropWhile.symm,
    List.all_eq_true.mp List.all_takeWhile, fun b hb => ?_⟩
  have hhead := List.head?_dropWhile_not p t
  rw [hb] at hhead
  simpa using hhead

/-- At most one sign stands at the front of a text. -/
theorem exists_sign (t : Str) : ∃ sgn rest : Str, t = sgn ++ rest ∧ sgn ∈ [[], [0x2D], [0x2B]] ∧
    (sgn = [] → ∀ b, rest.head? = some b → b ≠ 0x2D ∧ b ≠ 0x2B) := by
  cases t with
  | nil => exact ⟨[], [], rfl, by simp, nofun⟩
  | cons b u =>
    by_cases hminus : b = 0x2D
    · exact ⟨[0x2D], u, by rw [hminus]; rfl, by simp, nofun⟩
    · by_cases hplus : b = 0x2B
      · exact ⟨[0x2B], u, by rw [hplus]; rfl, by simp, nofun⟩
      · exact ⟨[], b :: u, rfl, by simp, fun _ c hc => by cases hc; exact ⟨hminus, hplus⟩⟩

namespace DecimalSplit

variable {ws sgn ds rest : Str}

/-- Without a sign, what follows the white space begins with none and with no sign. -/
theorem head_of_unsigned (h : DecimalSplit ws [] ds rest) (b : Byte) (hb : (ds ++ rest).head? = some b) :
    ¬ SpaceByte b ∧ b ≠ 0x2D ∧ b ≠ 0x2B := by
  cases ds with
  | nil => exact h.rest_unsigned rfl rfl b hb
  | cons d t =>
    cases hb
    exact DigitByte.not_space_sign (h.digits b List.mem_cons_self)

/-- The digits are read whole, and nothing of the rest. -/
theorem parseDigits_eq (h : DecimalSplit ws sgn ds rest) : parseDigits 0 (ds ++ rest) = digitsValue ds :=
  parseDigits_append ds rest h.digits h.rest_head 0

/-- The white space is skipped, and nothing after it. -/
theorem skipSpaces_eq (h : DecimalSplit ws sgn ds rest) :
    skipSpaces (ws ++ sgn ++ ds ++ rest) = sgn ++ (ds ++ rest) := by
  rw [List.append_assoc, List.append_assoc, skipSpaces_append ws _ h.spaces]
  refine skipSpaces_of_head _ fun b hb => ?_
  have hsign := h.sign
  simp only [List.mem_cons, List.not_mem_nil, or_false] at hsign
  obtain rfl | rfl | rfl := hsign
  · exact (h.head_of_unsigned b hb).1
  · cases hb
    decide
  · cases hb
    decide

/-- The sign is read, and the digits after it. -/
theorem parseSigned_eq (h : DecimalSplit ws sgn ds rest) :
    parseSigned (sgn ++ (ds ++ rest)) = if sgn = [0x2D] then -(digitsValue ds : Int) else digitsValue ds := by
  have hdigits := h.parseDigits_eq
  have hsign := h.sign
  simp only [List.mem_cons, List.not_mem_nil, or_false] at hsign
  obtain rfl | rfl | rfl := hsign
  · rw [List.nil_append, parseSigned_unsigned _ fun b hb => (h.head_of_unsigned b hb).2, hdigits]
    rfl
  · rw [← hdigits]
    rfl
  · rw [← hdigits]
    rfl

/-- `parse_dec` of a text that is split so (44 R147). -/
theorem parseDec_eq (h : DecimalSplit ws sgn ds rest) : parseDec (ws ++ sgn ++ ds ++ rest) =
    wrapW (if sgn = [0x2D] then -(digitsValue ds : Int) else digitsValue ds) := by
  rw [parseDec, h.skipSpaces_eq, h.parseSigned_eq]

/-- Every text splits so. -/
theorem exists_of_text (t : Str) : ∃ ws sgn ds rest : Str, t = ws ++ sgn ++ ds ++ rest ∧
    DecimalSplit ws sgn ds rest := by
  obtain ⟨ws, u, rfl, hws, hu⟩ := exists_append_of_test isSpaceByte t
  obtain ⟨sgn, v, rfl, hsgn, hv⟩ := exists_sign u
  obtain ⟨ds, rest, rfl, hds, hrest⟩ := exists_append_of_test isDigitByte v
  refine ⟨ws, sgn, ds, rest, by simp, fun b hb => (isSpaceByte_iff b).mp (hws b hb), hsgn,
    fun b hb => (isDigitByte_iff b).mp (hds b hb), fun b hb hdigit => ?_, ?_⟩
  · exact Bool.false_ne_true ((hrest b hb).symm.trans ((isDigitByte_iff b).mpr hdigit))
  · rintro rfl rfl b hb
    refine ⟨fun hspace => ?_, hv rfl b hb⟩
    exact Bool.false_ne_true ((hu b hb).symm.trans ((isSpaceByte_iff b).mpr hspace))

/-- A decimal text is its own sign and digits (41 R105, 44 R147). -/
theorem of_dec (n : Number) : ∃ sgn ds : Str, dec n = [] ++ sgn ++ ds ++ [] ∧ DecimalSplit [] sgn ds [] ∧
    (if sgn = [0x2D] then -(digitsValue ds : Int) else digitsValue ds) = n.toInt := by
  obtain ⟨ds, _, hall, hvalue, hdec, _⟩ := decimalTextIsCanonical n
  refine ⟨if n.toInt < 0 then [0x2D] else [], ds, by simpa using hdec, ⟨nofun, ?_, hall, nofun, fun _ _ => nofun⟩, ?_⟩
  · split <;> simp
  · rw [hvalue]
    by_cases hneg : n.toInt < 0
    · simp only [hneg, if_true]
      omega
    · simp only [hneg, if_false, List.nil_eq, reduceCtorEq]
      omega

end DecimalSplit

theorem parseDec_dec (n : Number) : parseDec (dec n) = n := by
  obtain ⟨sgn, ds, hdec, hsplit, hvalue⟩ := DecimalSplit.of_dec n
  rw [hdec, hsplit.parseDec_eq, hvalue, wrapW_toInt_self]

/-- Settles O15: a text is read as it splits, every text splits, and a decimal text splits into its sign and digits. -/
theorem parseDecimalReadsPrefix : Obligations.ParseDecimalReadsPrefix := by
  refine ⟨fun ws sgn ds rest hws hsgn hds hrest hunsigned => ?_, fun t => ?_, by decide, by decide, parseDec_dec⟩
  · rw [DecimalSplit.parseDec_eq ⟨hws, hsgn, hds, hrest, hunsigned⟩]
    exact wrapW_congruent _
  · obtain ⟨ws, sgn, ds, rest, ht, hsplit⟩ := DecimalSplit.exists_of_text t
    exact ⟨ws, sgn, ds, rest, ht, hsplit.spaces, hsplit.sign, hsplit.digits, hsplit.rest_head, hsplit.rest_unsigned⟩

end Sys2Proof.Machine
end
